-- ==== Sys2Proof/Word.lean ====
section
/-! DEFINITION. The widths the core's values have (spec/00_scope.md R8): plain bit vectors. The helpers that
cut and rotate them stand in Sys2Proof/Machine/Bits.lean. -/

namespace Sys2Proof

/-- One byte of buffer memory (20_memory.md R50). -/
abbrev Byte := BitVec 8

/-- A half-block, and the word the round function works on (00_scope.md R8, 43_feistel.md R170). -/
abbrev Half := BitVec 32

/-- A block, a key register, an operand register or a chain value (00_scope.md R8, 10_state.md R30, R34). -/
abbrev Block := BitVec 64

/-- A round key's 48 significant bits (00_scope.md R8, 30_encoding.md R92). -/
abbrev SubKey := BitVec 48

/-- One 28-bit half of the key-schedule state (00_scope.md R8, 30_encoding.md R93). -/
abbrev HalfKey := BitVec 28

/-- A command word, as written to CMD (30_encoding.md R80). -/
abbrev CmdWord := BitVec 32

end Sys2Proof
end

