-- ==== Sys2Proof/Config.lean ====
section
/-! DEFINITION. What the platform fixes: the named parameters of spec/00_scope.md R9 and 10_state.md R28, as plain
data, and the values the spec takes for them. The machine holds one Params in its state and no step changes it
(log 2), so every statement holds for every value of the parameters. The spec leaves no result value open after
which the machine goes on, so there is no free value and no opaque constant here. -/

namespace Sys2Proof

/-- `SBOX_FORM` (00_scope.md R9, 41_sbox.md R139): which substitution ROM the core holds. -/
inductive SboxForm where
  | compact
  | fused
  deriving DecidableEq, Repr

/-- A run of byte addresses `[base, base + size)`. Bases and sizes are exact integers (00_scope.md R11). -/
structure Region where
  base : Nat
  size : Nat
  deriving DecidableEq, Repr

/-- The model arguments of 00_scope.md R9 and `REG_BASE` of 10_state.md R28. -/
structure Params where
  /-- `SBOX_FORM` (D2). -/
  sboxForm : SboxForm
  /-- `ALIGN_CHECK` (D5). -/
  alignCheck : Bool
  /-- `ERR_INVAL`, a signed 32-bit status value (D6). -/
  errInval : BitVec 32
  /-- `Mapped` (D4): the byte addresses the host has provided, as runs. The runs may touch or overlap. -/
  mapped : List Region
  /-- `REG_BASE` (D10). -/
  regBase : BitVec 64
  deriving DecidableEq, Repr

/-- `ADDR_W`, the width of a buffer address (00_scope.md R9, D3). -/
def Config.addrWidth : Nat := 64

/-- One past the highest buffer address, `2^ADDR_W` (20_memory.md R50, R56). -/
def Config.addrLimit : Nat := 2 ^ Config.addrWidth

/-- Bytes of one block (00_scope.md R8). -/
def Config.blockBytes : Nat := 8

/-- The parameter values of the machine's reset state. `ALIGN_CHECK` and `ERR_INVAL` are the values 00_scope.md R9
takes (log 5, log 6). DESIGN CHOICE: the fused ROM (log 4), the whole address space as `Mapped` (log 3) and
`REG_BASE` 0 (log 7), which the spec leaves to the platform. -/
def Params.taken : Params where
  sboxForm := .fused
  alignCheck := false
  errInval := 0xFFFFFFEA#32
  mapped := [⟨0, Config.addrLimit⟩]
  regBase := 0#64

end Sys2Proof
end

