-- ==== Sys2Proof/Syntax.lean ====
section
/-! DEFINITION. The command set (spec/30_encoding.md R83), the fields of a command word (R80), and what the host can
do at the interface (spec/10_state.md R28 to R33, spec/30_encoding.md R88, R89). -/

namespace Sys2Proof

/-- One constructor per row of the opcode table (30_encoding.md R83). A command word carries no operand: the operands
stand in ARG0 to ARG3 (R85), and the context is implicit (R81). -/
inductive Instr where
  /-- `CONSTRUCT` (45_commands.md R211). -/
  | construct
  /-- `INIT` (45_commands.md R212). -/
  | init
  /-- `TRANSFORM.E` (45_commands.md R218). -/
  | transformE
  /-- `TRANSFORM.D` (45_commands.md R219). -/
  | transformD
  /-- `TRANSFORM.E.CBC` (45_commands.md R220). -/
  | transformECbc
  /-- `TRANSFORM.D.CBC` (45_commands.md R221). -/
  | transformDCbc
  /-- `MAC` (45_commands.md R224). -/
  | mac
  deriving DecidableEq, Repr

/-- The fields of a command word (30_encoding.md R80). -/
structure CmdFields where
  /-- Bits 31:6. -/
  reserved : BitVec 26
  /-- Bit 5, `C`. -/
  chained : Bool
  /-- Bit 4, `D`. -/
  decrypt : Bool
  /-- Bits 3:0, `OP`. -/
  op : BitVec 4
  deriving DecidableEq, Repr

/-- How many bits one host access moves. -/
inductive AccessWidth where
  | w8
  | w16
  | w32
  | w64
  deriving DecidableEq, Repr

/-- How the host names a register: by its number, or, where the registers are memory-mapped, by a byte address
(10_state.md R28). -/
inductive RegSel where
  | num (n : Nat)
  | addr (a : BitVec 64)
  deriving DecidableEq, Repr

/-- The host interface registers that exist (10_state.md R28). -/
inductive HostReg where
  | cmd
  | status
  | info
  | arg (n : Fin 4)
  deriving DecidableEq, Repr

/-- One action of the host on the core or on the buffer memory it owns (10_state.md R20). A register write carries
the low bits of `v` that its width names (log 11). -/
inductive HostAction where
  /-- A write of a host register; a write of CMD starts a command (10_state.md R29, R30). -/
  | regWrite (r : RegSel) (w : AccessWidth) (v : BitVec 64)
  /-- A read of a host register (10_state.md R30 to R32). -/
  | regRead (r : RegSel) (w : AccessWidth)
  /-- The host stores a byte of its buffer memory (20_memory.md R63). -/
  | memStore (a : BitVec 64) (b : Byte)
  /-- The host loads a byte of its buffer memory (20_memory.md R63). -/
  | memLoad (a : BitVec 64)
  /-- Reset, between commands (70_reset_and_hazards.md R291). -/
  | reset
  deriving DecidableEq, Repr

/-- What a host read returned, at the width of what was read. -/
inductive Reply where
  | byte (v : Byte)
  | word (v : BitVec 32)
  | dword (v : BitVec 64)
  deriving DecidableEq, Repr

/-- A host statement of the assembler syntax (30_encoding.md R88). -/
inductive HostStmt where
  /-- `WARG n, v`. -/
  | warg (n : Fin 4) (v : BitVec 64)
  /-- `CMD w`. -/
  | cmd (w : CmdWord)
  /-- `RD reg`: STATUS, INFO or ARGn. -/
  | rd (r : HostReg)
  deriving DecidableEq, Repr

/-- A pseudo-instruction with its operands (30_encoding.md R89). -/
inductive Pseudo where
  | construct
  | init (key bits : BitVec 64)
  | transformE (dst src n : BitVec 64)
  | transformD (dst src n : BitVec 64)
  | transformECbc (dst src n iv : BitVec 64)
  | transformDCbc (dst src n iv : BitVec 64)
  | mac (dst src n : BitVec 64)
  deriving DecidableEq, Repr

end Sys2Proof
end

