-- ==== Sys2Proof/WellFormed.lean ====
section
/-! DEFINITION. What makes a term of the syntax one the spec gives a meaning to: the fields of a command word
(spec/30_encoding.md R80 to R84), a host statement (R88), a permutation table (spec/40_permutation.md R110) and the
parameters (spec/92_eei_decisions.md D6). -/

namespace Sys2Proof

/-- Bits 31:6 of a command word must be 0 (30_encoding.md R80). -/
def CmdFields.reservedClear (f : CmdFields) : Bool := f.reserved == 0#26

/-- `OP` names one of the four operations (30_encoding.md R81). -/
def CmdFields.opDefined (f : CmdFields) : Bool :=
  f.op == 1#4 || f.op == 2#4 || f.op == 3#4 || f.op == 4#4

/-- `D` and `C` may be set only where `OP` is TRANSFORM (30_encoding.md R82, R84). -/
def CmdFields.flagsAllowed (f : CmdFields) : Bool :=
  f.op == 3#4 || (!f.decrypt && !f.chained)

/-- The fields spell a command: the three checks of 30_encoding.md R84. -/
def CmdFields.wf (f : CmdFields) : Bool :=
  f.reservedClear && f.opDefined && f.flagsAllowed

/-- An instruction carries no operand (30_encoding.md R81, R85), so each constructor is well formed as it stands. -/
def Instr.wf : Instr → Bool
  | .construct => true
  | .init => true
  | .transformE => true
  | .transformD => true
  | .transformECbc => true
  | .transformDCbc => true
  | .mac => true

/-- `RD` names STATUS, INFO or an ARG, never CMD (30_encoding.md R88). -/
def HostStmt.wf : HostStmt → Bool
  | .warg _ _ => true
  | .cmd _ => true
  | .rd .cmd => false
  | .rd .status => true
  | .rd .info => true
  | .rd (.arg _) => true

/-- Every index of a permutation table lies inside the input register: "an error in construction, not a runtime
condition" (40_permutation.md R110, 30_encoding.md R94). -/
def tableInside (w : Nat) (t : List Nat) : Bool := t.all fun k => decide (k < w)

/-- `ERR_INVAL` is negative as a signed value, so it differs from success (10_state.md R31, 92_eei_decisions.md D6). -/
def Params.wf (p : Params) : Bool := p.errInval.msb

end Sys2Proof
end

