-- ==== Sys2Proof/Decode.lean ====
section
/-! DEFINITION. Decoding a command word (spec/30_encoding.md R80 to R84) and, after it, encoding one. A command is one
32-bit word written to CMD; it never stands in memory (spec/20_memory.md R65), so there is no byte order to undo. -/

namespace Sys2Proof

/-- Why a word spells no command (30_encoding.md R84). The step refuses each with `ReservedCommand`. -/
inductive DecodeReject where
  /-- A nonzero bit in 31:6. -/
  | reservedBits
  /-- `OP` is `0000` or at least `0101`. -/
  | reservedOp
  /-- `D` or `C` is set and `OP` is not TRANSFORM. -/
  | flagsWithoutTransform
  deriving DecidableEq, Repr

/-- Cuts a command word into its fields (30_encoding.md R80). -/
def unpackFields (w : CmdWord) : CmdFields where
  reserved := w.extractLsb' 6 26
  chained := w.getLsbD 5
  decrypt := w.getLsbD 4
  op := w.extractLsb' 0 4

/-- The command the fields name, or the check of 30_encoding.md R84 they fail. -/
def decodeFields (f : CmdFields) : Except DecodeReject Instr :=
  if f.reserved = 0#26 then
    match f.op.toNat, f.decrypt, f.chained with
    | 1, false, false => .ok .construct
    | 1, _, _ => .error .flagsWithoutTransform
    | 2, false, false => .ok .init
    | 2, _, _ => .error .flagsWithoutTransform
    | 3, false, false => .ok .transformE
    | 3, true, false => .ok .transformD
    | 3, false, true => .ok .transformECbc
    | 3, true, true => .ok .transformDCbc
    | 4, false, false => .ok .mac
    | 4, _, _ => .error .flagsWithoutTransform
    | _, _, _ => .error .reservedOp
  else .error .reservedBits

/-- The decoder: total on every 32-bit word (30_encoding.md R83, R84). -/
def decode (w : CmdWord) : Except DecodeReject Instr := decodeFields (unpackFields w)

/-- The fields of each command (30_encoding.md R81, R82, R83). -/
def fieldsOf : Instr → CmdFields
  | .construct => ⟨0#26, false, false, 1#4⟩
  | .init => ⟨0#26, false, false, 2#4⟩
  | .transformE => ⟨0#26, false, false, 3#4⟩
  | .transformD => ⟨0#26, false, true, 3#4⟩
  | .transformECbc => ⟨0#26, true, false, 3#4⟩
  | .transformDCbc => ⟨0#26, true, true, 3#4⟩
  | .mac => ⟨0#26, false, false, 4#4⟩

/-- Lays the fields out in a word (30_encoding.md R80). -/
def packFields (f : CmdFields) : CmdWord :=
  f.reserved ++ BitVec.ofBool f.chained ++ BitVec.ofBool f.decrypt ++ f.op

/-- The encoder: the word of a command (30_encoding.md R83). -/
def encode (i : Instr) : CmdWord := packFields (fieldsOf i)

/-- What the decoder reads from an instruction whose bits are `w`, bit 0 the least significant of its one word. Every
command has one length, 32 bits (30_encoding.md R80), so bits above `nbits` are 0 and nothing longer decodes (log 21). -/
def decodeTableWord (nbits w : Nat) : Option Instr :=
  if nbits ≤ 32 ∧ w < 2 ^ nbits then
    match decode (BitVec.ofNat 32 w) with
    | .ok i => some i
    | .error _ => none
  else none

end Sys2Proof
end

