-- ==== Sys2Proof/Machine/State.lean ====
section
/-! DEFINITION. The machine's state (spec/10_state.md), all of it plain data, the reasons a step can stop
(spec/60_exceptions.md R264, R266), and the state after reset (spec/10_state.md R37, spec/70_reset_and_hazards.md R290). -/

namespace Sys2Proof.Machine

/-- A Round Key Set: sixteen 48-bit keys in encryption order (10_state.md R21). -/
abbrev KeySet := Vector SubKey 16

/-- Buffer memory as (address, byte) pairs. `Memory.wf` in Ops.lean is its canonical form; log 8 says what an
unlisted address reads as. -/
abbrev Memory := List Host.Cell

/-- An operand register and its hidden `written` mark (10_state.md R30). -/
structure ArgReg where
  value : BitVec 64
  written : Bool
  deriving DecidableEq, Repr

/-- The fault reasons of 60_exceptions.md R264, in the order of their codes. Each is safe: the model stops where the
source calls the results undefined. -/
inductive Fault where
  /-- A command, or a host read, reads an ARG whose written mark is 0. Raised by INIT, TRANSFORM, MAC and by a host
  read of an ARG (10_state.md R30). Safe. -/
  | unwrittenOperand
  /-- TRANSFORM or MAC while `KEY_VALID = 0` (10_state.md R23). Safe. -/
  | uninitialized
  /-- `ALIGN_CHECK` is true and a region's start is not a multiple of 8 (20_memory.md R57). Raised by INIT, TRANSFORM
  and MAC. Safe. -/
  | misaligned
  /-- A region leaves the address space or `Mapped` (20_memory.md R56). Raised by INIT, TRANSFORM and MAC, and by a
  host byte access outside `Mapped` (log 13). Safe. -/
  | outOfBounds
  /-- TRANSFORM source and destination, or MAC destination and source, overlap partially (20_memory.md R58, R59).
  Safe. -/
  | partialOverlap
  deriving DecidableEq, Repr

/-- The refusal reasons of 60_exceptions.md R266, and the host's `notModelled`. -/
inductive Refusal where
  /-- An instruction whose arm has no meaning yet. No arm of exec raises it: every instruction has its meaning. Safe. -/
  | notModelled (mnemonic : String)
  /-- A CMD write of a word that spells no command (30_encoding.md R84). Raised by the host port. Safe. -/
  | reservedCommand
  /-- A host access with no meaning at the interface (10_state.md R33). Raised by the host port. Safe. -/
  | reservedAccess
  deriving DecidableEq, Repr

/-- Everything the spec gives the machine, and two fields of the model's own. INFO is computed from `keyValid` and
`triple` (10_state.md R32), CMD keeps no value (R29), and the transient registers live inside a command (R34). -/
structure State where
  /-- The model arguments of 00_scope.md R9, held as data and never changed by a step (log 2). -/
  params : Params
  /-- `RK[s][r]`, the round-key file (10_state.md R21). -/
  rk : Vector KeySet 3
  /-- `TRIPLE` (10_state.md R22). -/
  triple : Bool
  /-- `KEY_VALID` (10_state.md R23). -/
  keyValid : Bool
  /-- `STATUS`, a signed 32-bit value (10_state.md R31). -/
  status : BitVec 32
  /-- `ARG0` to `ARG3` with their `written` marks (10_state.md R30). -/
  args : Vector ArgReg 4
  /-- `FAULT`, the sticky mark of a faulted run (10_state.md R36; log 15). -/
  faultMark : Option Fault
  /-- `REFUSED`, the sticky mark of a refused run (10_state.md R36; log 15). -/
  refusedMark : Option Refusal
  /-- Buffer memory (20_memory.md R50). -/
  mem : Memory
  /-- THE MODEL'S OWN FIELD: the host's coming actions, oldest first. The core acts only when the host does
  (10_state.md R20, R29; log 1). -/
  host : List HostAction
  /-- THE MODEL'S OWN FIELD: what the host's last read returned; `none` before the first (10_state.md R30 to R32;
  log 10). -/
  reply : Option Reply
  deriving DecidableEq, Repr

/-- The state with another `params`. -/
def State.withParams (s : State) (x : Params) : State := { s with params := x }

/-- The state with another `rk`. -/
def State.withRk (s : State) (x : Vector KeySet 3) : State := { s with rk := x }

/-- The state with another `triple`. -/
def State.withTriple (s : State) (x : Bool) : State := { s with triple := x }

/-- The state with another `keyValid`. -/
def State.withKeyValid (s : State) (x : Bool) : State := { s with keyValid := x }

/-- The state with another `status`. -/
def State.withStatus (s : State) (x : BitVec 32) : State := { s with status := x }

/-- The state with another `args`. -/
def State.withArgs (s : State) (x : Vector ArgReg 4) : State := { s with args := x }

/-- The state with another `faultMark`. -/
def State.withFaultMark (s : State) (x : Option Fault) : State := { s with faultMark := x }

/-- The state with another `refusedMark`. -/
def State.withRefusedMark (s : State) (x : Option Refusal) : State := { s with refusedMark := x }

/-- The state with another `mem`. -/
def State.withMem (s : State) (x : Memory) : State := { s with mem := x }

/-- The state with another `host`. -/
def State.withHost (s : State) (x : List HostAction) : State := { s with host := x }

/-- The state with another `reply`. -/
def State.withReply (s : State) (x : Option Reply) : State := { s with reply := x }

/-- Sixteen round keys of 0 (10_state.md R37). -/
def KeySet.zero : KeySet := Vector.replicate 16 0#48

/-- The round-key file after reset and after CONSTRUCT: all 48 entries 0 (10_state.md R37, 45_commands.md R211). -/
def zeroRoundKeys : Vector KeySet 3 := Vector.replicate 3 KeySet.zero

/-- An operand register after reset: unwritten. DESIGN CHOICE: the value behind the cleared mark is 0 (log 9). -/
def ArgReg.unwritten : ArgReg := ⟨0#64, false⟩

/-- The state after reset (10_state.md R37, 70_reset_and_hazards.md R290). The parameters are `Params.taken`, no byte
of memory is listed (log 8), and the host has done nothing yet (log 1, log 10). -/
def State.reset : State where
  params := Params.taken
  rk := zeroRoundKeys
  triple := false
  keyValid := false
  status := 0#32
  args := Vector.replicate 4 ArgReg.unwritten
  faultMark := none
  refusedMark := none
  mem := []
  host := []
  reply := none

end Sys2Proof.Machine
end

