-- ==== Sys2Proof/Machine/Flags.lean ====
section
/-! DEFINITION. The core's flags are TRIPLE and KEY_VALID (spec/10_state.md R35), which the host reads in INFO (R32). No
flag depends on data, and the datapath functions write none. -/

namespace Sys2Proof.Machine

/-- INFO: bit 0 is KEY_VALID, bit 1 is TRIPLE, bits 31:2 read as zero (10_state.md R32). -/
def infoWord (s : State) : BitVec 32 := 0#30 ++ BitVec.ofBool s.triple ++ BitVec.ofBool s.keyValid

/-- Writes the cipher context: the round-key file and both flags (10_state.md R21 to R23). -/
def setContext (s : State) (rk : Vector KeySet 3) (triple valid : Bool) : State :=
  ((s.withRk rk).withTriple triple).withKeyValid valid

end Sys2Proof.Machine
end

