-- ==== Sys2Proof/Machine/Bits.lean ====
section
/-! DEFINITION. The cutting and swapping of 64-bit values (spec/00_scope.md R11). -/

namespace Sys2Proof.Machine

/-- `low32(x) = x[31:0]` (00_scope.md R11). -/
def low32 (x : Block) : Half := x.extractLsb' 0 32

/-- `high32(x) = x[63:32]` (00_scope.md R11). -/
def high32 (x : Block) : Half := x.extractLsb' 32 32

/-- `swap64(x) = low32(x) ‖ high32(x)` (00_scope.md R11). -/
def swap64 (x : Block) : Block := low32 x ++ high32 x

/-- Byte `j` of a 64-bit value as memory holds it: bits `63 − 8j : 56 − 8j` (20_memory.md R53, 30_encoding.md R90). -/
def byteOf (v : Block) (j : Nat) : Byte := v.extractLsb' (56 - 8 * j) 8

end Sys2Proof.Machine
end

