-- ==== Sys2Proof/Machine/Permutation.lean ====
section
/-! DEFINITION. The permutation engine and its constant tables (spec/40_permutation.md): pure functions and constants,
reached only through the commands. A table lists, for each output bit from the most significant down, the index of the
input bit it takes (spec/30_encoding.md R94). The values are those the spec supplies from FIPS 46-3 (log 18). -/

namespace Sys2Proof.Machine

/-- `permute(x, t)` (40_permutation.md R111): the bits of `x` the table names, most significant first. -/
def permute (n : Nat) {w : Nat} (x : BitVec w) (t : List Nat) : BitVec n :=
  t.foldl (fun res k => (res <<< 1) ||| (BitVec.ofBool (x.getLsbD k)).setWidth n) 0#n

/-- `permute_inverse(x, t)` (40_permutation.md R112): scatters the bits of `x`, least significant first, to the
positions the table names. -/
def permuteInverse (w : Nat) {n : Nat} (x : BitVec n) (t : List Nat) : BitVec w :=
  (List.range t.length).foldl
    (fun res j => res ||| ((BitVec.ofBool (x.getLsbD j)).setWidth w <<< t.getD (t.length - 1 - j) 0)) 0#w

/-- IP, the initial permutation, 64 bits to 64 (40_permutation.md R114). -/
def ipTable : List Nat :=
  [6, 14, 22, 30, 38, 46, 54, 62, 4, 12, 20, 28, 36, 44, 52, 60,
   2, 10, 18, 26, 34, 42, 50, 58, 0, 8, 16, 24, 32, 40, 48, 56,
   7, 15, 23, 31, 39, 47, 55, 63, 5, 13, 21, 29, 37, 45, 53, 61,
   3, 11, 19, 27, 35, 43, 51, 59, 1, 9, 17, 25, 33, 41, 49, 57]

/-- PC-1, the selection permutation that drops the parity bits, 64 bits to 56 (40_permutation.md R116). -/
def pc1Table : List Nat :=
  [7, 15, 23, 31, 39, 47, 55, 63, 6, 14, 22, 30, 38, 46,
   54, 62, 5, 13, 21, 29, 37, 45, 53, 61, 4, 12, 20, 28,
   1, 9, 17, 25, 33, 41, 49, 57, 2, 10, 18, 26, 34, 42,
   50, 58, 3, 11, 19, 27, 35, 43, 51, 59, 36, 44, 52, 60]

/-- PC-2, the compression permutation, 56 bits to 48 (40_permutation.md R117). -/
def pc2Table : List Nat :=
  [42, 39, 45, 32, 55, 51, 53, 28, 41, 50, 35, 46,
   33, 37, 44, 52, 30, 48, 40, 49, 29, 36, 43, 54,
   15, 4, 25, 19, 9, 1, 26, 16, 5, 11, 23, 8,
   12, 7, 17, 0, 22, 3, 10, 14, 6, 20, 27, 24]

/-- P, the round permutation, 32 bits to 32 (40_permutation.md R118). -/
def pTable : List Nat :=
  [16, 25, 12, 11, 3, 20, 4, 15, 31, 17, 9, 6, 27, 14, 1, 22,
   30, 24, 8, 18, 0, 5, 29, 23, 13, 19, 2, 26, 10, 21, 28, 7]

/-- FP in index form (40_permutation.md R115). A cross-check only: the core applies `permuteInverse` with IP. -/
def fpTable : List Nat :=
  [24, 56, 16, 48, 8, 40, 0, 32, 25, 57, 17, 49, 9, 41, 1, 33,
   26, 58, 18, 50, 10, 42, 2, 34, 27, 59, 19, 51, 11, 43, 3, 35,
   28, 60, 20, 52, 12, 44, 4, 36, 29, 61, 21, 53, 13, 45, 5, 37,
   30, 62, 22, 54, 14, 46, 6, 38, 31, 63, 23, 55, 15, 47, 7, 39]

/-- E in index form (40_permutation.md R119). A cross-check only: the round function rotates the half-block. -/
def eTable : List Nat :=
  [0, 31, 30, 29, 28, 27, 28, 27, 26, 25, 24, 23,
   24, 23, 22, 21, 20, 19, 20, 19, 18, 17, 16, 15,
   16, 15, 14, 13, 12, 11, 12, 11, 10, 9, 8, 7,
   8, 7, 6, 5, 4, 3, 4, 3, 2, 1, 0, 31]

end Sys2Proof.Machine
end

