-- ==== Sys2Proof/Machine/KeySchedule.lean ====
section
/-! DEFINITION. The key schedule generator (spec/42_key_schedule.md): a pure function of one 64-bit key register. -/

namespace Sys2Proof.Machine

/-- The key-schedule halves C and D (42_key_schedule.md R151; transient, 10_state.md R34). -/
structure KeyHalves where
  c : HalfKey
  d : HalfKey
  deriving DecidableEq, Repr

/-- Step 1: PC-1 and the split into C, bits 55:28, and D, bits 27:0 (42_key_schedule.md R151, 30_encoding.md R93). -/
def selectHalves (k : Block) : KeyHalves :=
  let cd := permute 56 k pc1Table
  ⟨cd.extractLsb' 28 28, cd.extractLsb' 0 28⟩

/-- `key_rotate(C, D)`: each half rotates left by one within its own 28 bits (42_key_schedule.md R152). -/
def keyRotate (h : KeyHalves) : KeyHalves := ⟨h.c.rotateLeft 1, h.d.rotateLeft 1⟩

/-- The rounds whose halves rotate a second time (42_key_schedule.md R153). -/
def rotatesTwice (r : Nat) : Bool := decide (r > 1) && r != 8 && r != 15

/-- Step 2: the rotations of round `r` (42_key_schedule.md R153). -/
def rotateForRound (r : Nat) (h : KeyHalves) : KeyHalves :=
  if rotatesTwice r then keyRotate (keyRotate h) else keyRotate h

/-- The halves after the rotations of rounds 0 to `r` (42_key_schedule.md R155). -/
def halvesAfter (k : Block) : Nat → KeyHalves
  | 0 => rotateForRound 0 (selectHalves k)
  | r + 1 => rotateForRound (r + 1) (halvesAfter k r)

/-- Step 3: PC-2 of `C ‖ D` (42_key_schedule.md R154). -/
def compressHalves (h : KeyHalves) : SubKey := permute 48 (h.c ++ h.d) pc2Table

/-- `gen_roundkeys(K)`: the sixteen round keys in round order (42_key_schedule.md R155). -/
def genRoundKeys (k : Block) : KeySet := Vector.ofFn fun r => compressHalves (halvesAfter k r.val)

end Sys2Proof.Machine
end

