-- ==== Sys2Proof/Machine/Ops.lean ====
section
/-! DEFINITION. The named operations over memory and regions (spec/20_memory.md), the order in which checks fail
(spec/60_exceptions.md R267), and what a stopped step leaves (R263, R266). The core has no trap entry and no return
from one (R268): recording the sticky mark is the one operation a fault or a refusal shares. -/

namespace Sys2Proof.Machine

/-! ### Buffer memory -/

/-- What an address that no cell lists reads as. DESIGN CHOICE (log 8): the launch memory is a model argument. -/
def unlistedByte : Byte := 0#8

/-- The byte at an address (20_memory.md R50). -/
def readByte : Memory → Nat → Byte
  | [], _ => unlistedByte
  | (k, b) :: m, a => if k = a then b else readByte m a

/-- Memory without a cell for address `a`. -/
def eraseCell (a : Nat) (m : Memory) : Memory := m.filter fun c => c.1 != a

/-- Puts a cell before the first cell of a higher address. -/
def insertCell (a : Nat) (b : Byte) : Memory → Memory
  | [] => [(a, b)]
  | c :: m => if a < c.1 then (a, b) :: c :: m else c :: insertCell a b m

/-- Stores one byte and keeps the canonical form: the value an unlisted address reads as is not listed. -/
def writeByte (m : Memory) (a : Nat) (b : Byte) : Memory :=
  if b = unlistedByte then eraseCell a m else insertCell a b (eraseCell a m)

/-- The canonical form: addresses strictly rising, and no cell equal to what an unlisted address reads as. -/
def Memory.wf (m : Memory) : Bool :=
  decide (m.Pairwise fun c d => c.1 < d.1) && m.all fun c => c.2 != unlistedByte

/-- Every listed address lies in the address space (20_memory.md R50). -/
def Memory.inSpace (m : Memory) : Bool := m.all fun c => decide (c.1 < Config.addrLimit)

/-- `MemRead64BE(a)`: eight bytes, the first the most significant (20_memory.md R52). -/
def read64 (m : Memory) (a : Nat) : Block :=
  readByte m a ++ readByte m (a + 1) ++ readByte m (a + 2) ++ readByte m (a + 3) ++
  readByte m (a + 4) ++ readByte m (a + 5) ++ readByte m (a + 6) ++ readByte m (a + 7)

/-- `MemWrite64BE(a, v)`: byte `j` goes to `a + j` (20_memory.md R53). -/
def write64 (m : Memory) (a : Nat) (v : Block) : Memory :=
  (List.range 8).foldl (fun m j => writeByte m (a + j) (byteOf v j)) m

/-! ### Regions -/

/-- Every address of `[lo, hi)` lies in one of the runs. The part of the interval below a run and the part above it
are looked for in the runs that follow. -/
def covers : List Region → Nat → Nat → Bool
  | [], lo, hi => decide (hi ≤ lo)
  | r :: rs, lo, hi =>
    decide (hi ≤ lo) || (covers rs lo (min hi r.base) && covers rs (max lo (r.base + r.size)) hi)

/-- A region is admitted: empty, or inside the address space and inside `Mapped` (20_memory.md R56). -/
def admitted (p : Params) (r : Region) : Bool :=
  r.size == 0 || (decide (r.base + r.size ≤ Config.addrLimit) && covers p.mapped r.base (r.base + r.size))

/-- A nonempty region whose start is not a multiple of 8, where the platform checks alignment (20_memory.md R57). -/
def misalignedRegion (p : Params) (r : Region) : Bool :=
  p.alignCheck && r.size != 0 && r.base % 8 != 0

/-- Two regions share no address (20_memory.md R58). -/
def disjointRegions (a b : Region) : Bool :=
  decide (a.base + a.size ≤ b.base) || decide (b.base + b.size ≤ a.base)

/-- The overlap rule of a destination and a source: the same start, or disjoint (20_memory.md R58, R59). -/
def overlapAllowed (dst src : Region) : Bool := dst.base == src.base || disjointRegions dst src

/-! ### Checks -/

/-- One check: whether it fails, and the fault it then raises. -/
abbrev Check := Bool × Fault

/-- The first failing check decides the fault (60_exceptions.md R267). -/
def firstFault : List Check → Option Fault
  | [] => none
  | (failed, f) :: cs => if failed then some f else firstFault cs

/-- The alignment and bounds checks of a command's regions: all alignments before all bounds (60_exceptions.md R267). -/
def regionChecks (p : Params) (rs : List Region) : List Check :=
  [(rs.any (misalignedRegion p), .misaligned), (rs.any fun r => !admitted p r, .outOfBounds)]

/-! ### Stopping -/

/-- The code of a fault reason, held in no register (60_exceptions.md R264). -/
def faultCode : Fault → Nat
  | .unwrittenOperand => 1
  | .uninitialized => 2
  | .misaligned => 3
  | .outOfBounds => 4
  | .partialOverlap => 5

/-- The state a run is left in by a step from `s`: a fault or a refusal changes nothing but its sticky mark
(60_exceptions.md R263, R266; 10_state.md R36; log 15). -/
def recordOutcome (s : State) : Host.Outcome State Fault Refusal → State
  | .next t => t
  | .fault r => s.withFaultMark (some r)
  | .refused r => s.withRefusedMark (some r)

/-- The outcome a marked state repeats: "every step after a set mark is disabled" (10_state.md R36; log 15). -/
def stopped (s : State) : Option (Host.Outcome State Fault Refusal) :=
  match s.faultMark, s.refusedMark with
  | some r, _ => some (.fault r)
  | none, some r => some (.refused r)
  | none, none => none

end Sys2Proof.Machine
end

