-- ==== Sys2Proof/Machine/Operands.lean ====
section
/-! DEFINITION. The operands of the commands: the ARG registers (spec/10_state.md R30, spec/30_encoding.md R85 to R87),
the regions they give (spec/20_memory.md R51), and the checks of each command in the order of
spec/60_exceptions.md R267. -/

namespace Sys2Proof.Machine

/-- The value of ARGn. -/
def argValue (s : State) (n : Fin 4) : BitVec 64 := s.args[n].value

/-- The written mark of ARGn (10_state.md R30). -/
def argWritten (s : State) (n : Fin 4) : Bool := s.args[n].written

/-- `ARGn <- v` by the host: the value is stored and the mark is set (10_state.md R30). -/
def writeArg (s : State) (n : Fin 4) (v : BitVec 64) : State := s.withArgs (s.args.set n ⟨v, true⟩)

/-- The destination address, ARG0 (30_encoding.md R85). -/
def dstAddr (s : State) : Nat := (argValue s 0).toNat

/-- The source address, ARG1 (30_encoding.md R85). -/
def srcAddr (s : State) : Nat := (argValue s 1).toNat

/-- The block count N, ARG2 as an unsigned value (30_encoding.md R87). -/
def blockCount (s : State) : Nat := (argValue s 2).toNat

/-- The chaining-state address, ARG3 (30_encoding.md R85). -/
def ivAddr (s : State) : Nat := (argValue s 3).toNat

/-- The key address of INIT, ARG0 (30_encoding.md R85). -/
def keyAddr (s : State) : Nat := (argValue s 0).toNat

/-- `key_bits`, ARG1 as an unsigned value (30_encoding.md R86). -/
def keyBits (s : State) : Nat := (argValue s 1).toNat

/-- INIT accepts exactly 64 and 192 (30_encoding.md R86). -/
def keyBitsValid (s : State) : Bool := keyBits s == 64 || keyBits s == 192

/-- INIT's key region (20_memory.md R51). -/
def keyRegion (s : State) : Region := ⟨keyAddr s, keyBits s / 8⟩

/-- The source region of TRANSFORM and MAC (20_memory.md R51). -/
def srcRegion (s : State) : Region := ⟨srcAddr s, 8 * blockCount s⟩

/-- TRANSFORM's destination region (20_memory.md R51). -/
def dstRegion (s : State) : Region := ⟨dstAddr s, 8 * blockCount s⟩

/-- The chaining-state region (20_memory.md R51). -/
def ivRegion (s : State) : Region := ⟨ivAddr s, 8⟩

/-- MAC's destination region: 8 bytes, or none when no block is processed (20_memory.md R51, 90_conflicts.md C9). -/
def macRegion (s : State) : Region := ⟨dstAddr s, if blockCount s = 0 then 0 else 8⟩

/-- Each listed ARG must be written, in the order listed (60_exceptions.md R267). -/
def operandChecks (s : State) (ns : List (Fin 4)) : List Check :=
  ns.map fun n => (!argWritten s n, .unwrittenOperand)

/-- TRANSFORM and MAC need a valid key (60_exceptions.md R267, 10_state.md R23). -/
def keyCheck (s : State) : Check := (!s.keyValid, .uninitialized)

/-- The overlap rule as a check (60_exceptions.md R267). -/
def overlapCheck (dst src : Region) : Check := (!overlapAllowed dst src, .partialOverlap)

/-- INIT's checks once the key length is valid (60_exceptions.md R267, items 2, 5 and 6). -/
def initChecks (s : State) : List Check :=
  operandChecks s [0] ++ regionChecks s.params [keyRegion s]

/-- The checks of TRANSFORM.E and TRANSFORM.D (60_exceptions.md R265, R267). -/
def unchainedChecks (s : State) : List Check :=
  operandChecks s [0, 1, 2] ++ [keyCheck s] ++ regionChecks s.params [srcRegion s, dstRegion s] ++
  [overlapCheck (dstRegion s) (srcRegion s)]

/-- The checks of TRANSFORM.E.CBC and TRANSFORM.D.CBC (60_exceptions.md R265, R267): the chaining-state region is
checked whatever N is (log 17), and it has no overlap rule (20_memory.md R60). -/
def chainedChecks (s : State) : List Check :=
  operandChecks s [0, 1, 2, 3] ++ [keyCheck s] ++
  regionChecks s.params [srcRegion s, dstRegion s, ivRegion s] ++
  [overlapCheck (dstRegion s) (srcRegion s)]

/-- The checks of MAC (60_exceptions.md R265, R267). -/
def macChecks (s : State) : List Check :=
  operandChecks s [0, 1, 2] ++ [keyCheck s] ++ regionChecks s.params [srcRegion s, macRegion s] ++
  [overlapCheck (macRegion s) (srcRegion s)]

end Sys2Proof.Machine
end

