-- ==== Sys2Proof/Machine/Context.lean ====
section
/-! DEFINITION. The context commands CONSTRUCT and INIT (spec/45_commands.md R211 to R215). -/

namespace Sys2Proof.Machine

/-- `CONSTRUCT` (45_commands.md R211): zeroes the context. It never faults. -/
def execConstruct (s : State) : Host.Outcome State Fault Refusal :=
  .next ((setContext s zeroRoundKeys false false).withStatus 0#32)

/-- Key set `j` of the key buffer: the schedule of segment `MemRead64BE(a + 8j)` (42_key_schedule.md R158,
20_memory.md R55). -/
def keySegmentSchedule (s : State) (j : Nat) : KeySet := genRoundKeys (read64 s.mem (keyAddr s + 8 * j))

/-- The round-key file after a 64-bit INIT: sets 1 and 2 keep their values (45_commands.md R214, 10_state.md R24;
log 16). -/
def singleKeyFile (s : State) : Vector KeySet 3 := s.rk.set 0 (keySegmentSchedule s 0)

/-- The round-key file after a 192-bit INIT (45_commands.md R215). -/
def tripleKeyFile (s : State) : Vector KeySet 3 :=
  ((s.rk.set 0 (keySegmentSchedule s 0)).set 1 (keySegmentSchedule s 1)).set 2 (keySegmentSchedule s 2)

/-- `INIT` (45_commands.md R212, R213): an invalid key length completes with `ERR_INVAL` and reads neither ARG0 nor
memory. -/
def execInit (s : State) : Host.Outcome State Fault Refusal :=
  match firstFault (operandChecks s [1]) with
  | some f => .fault f
  | none =>
    if keyBitsValid s then
      match firstFault (initChecks s) with
      | some f => .fault f
      | none =>
        if keyBits s = 192 then .next ((setContext s (tripleKeyFile s) true true).withStatus 0#32)
        else .next ((setContext s (singleKeyFile s) false true).withStatus 0#32)
    else .next ((s.withKeyValid false).withStatus s.params.errInval)

end Sys2Proof.Machine
end

