-- ==== Sys2Proof/Machine/Sbox.lean ====
section
/-! DEFINITION. The substitution look-ups (spec/41_sbox.md): the boxes by row and column, the compact form and the
fused form. -/

namespace Sys2Proof.Machine

/-- The row of a 6-bit input: its two outer bits (41_sbox.md R130). -/
def sboxRowOf (j : BitVec 6) : Nat := 2 * (j.getLsbD 5).toNat + (j.getLsbD 0).toNat

/-- The column of a 6-bit input: its four middle bits (41_sbox.md R130). -/
def sboxColOf (j : BitVec 6) : Nat := (j.extractLsb' 1 4).toNat

/-- `S_{i+1}(j)` (41_sbox.md R130, R131). -/
def sboxValue (i : Fin 8) (j : BitVec 6) : BitVec 4 :=
  BitVec.ofNat 4 (((sboxRows i).getD (sboxRowOf j) []).getD (sboxColOf j) 0)

/-- `sbox_compact(i, j)` (41_sbox.md R132): a byte of the compact ROM, and the nibble bit 0 of `j` picks. -/
def sboxCompact (i : Fin 8) (j : BitVec 6) : BitVec 4 :=
  let v : Byte := BitVec.ofNat 8 ((compactRom i).getD (j >>> 1).toNat 0)
  let v := if j.getLsbD 0 then v >>> 4 else v
  v.extractLsb' 0 4

/-- `SP[i][j]` (41_sbox.md R135, R137). -/
def sboxFused (i : Fin 8) (j : BitVec 6) : Half := BitVec.ofNat 32 ((fusedRom i).getD j.toNat 0)

/-- The 6-bit input of box `n + 1` in the 48 bits of one round: S1 takes bits 47:42, S8 bits 5:0 (30_encoding.md R92,
43_feistel.md R172). -/
def sboxInput (x : BitVec 48) (n : Fin 8) : BitVec 6 := x.extractLsb' (42 - 6 * n.val) 6

/-- `S_1(j_1) ‖ … ‖ S_8(j_8)` for the eight inputs in `x` (41_sbox.md R134). -/
def sboxLayer (x : BitVec 48) : Half :=
  sboxValue 0 (sboxInput x 0) ++ sboxValue 1 (sboxInput x 1) ++ sboxValue 2 (sboxInput x 2) ++
  sboxValue 3 (sboxInput x 3) ++ sboxValue 4 (sboxInput x 4) ++ sboxValue 5 (sboxInput x 5) ++
  sboxValue 6 (sboxInput x 6) ++ sboxValue 7 (sboxInput x 7)

/-- `subst_compact` (41_sbox.md R134): the eight look-ups, then the round permutation. -/
def substCompact (x : BitVec 48) : Half :=
  permute 32 (sboxCompact 0 (sboxInput x 0) ++ sboxCompact 1 (sboxInput x 1) ++ sboxCompact 2 (sboxInput x 2) ++
    sboxCompact 3 (sboxInput x 3) ++ sboxCompact 4 (sboxInput x 4) ++ sboxCompact 5 (sboxInput x 5) ++
    sboxCompact 6 (sboxInput x 6) ++ sboxCompact 7 (sboxInput x 7)) pTable

/-- `subst_fused` (41_sbox.md R135): the OR of the eight fused entries. -/
def substFused (x : BitVec 48) : Half :=
  sboxFused 0 (sboxInput x 0) ||| sboxFused 1 (sboxInput x 1) ||| sboxFused 2 (sboxInput x 2) |||
  sboxFused 3 (sboxInput x 3) ||| sboxFused 4 (sboxInput x 4) ||| sboxFused 5 (sboxInput x 5) |||
  sboxFused 6 (sboxInput x 6) ||| sboxFused 7 (sboxInput x 7)

/-- The bit-position slot of box `i + 1` before the round permutation: bits `31 − 4i : 28 − 4i` (41_sbox.md R134,
R138). -/
def slotMask (i : Fin 8) : Half := 0xF#32 <<< (28 - 4 * i.val)

end Sys2Proof.Machine
end

