-- ==== Sys2Proof/Machine/Feistel.lean ====
section
/-! DEFINITION. The Feistel round function (spec/43_feistel.md). -/

namespace Sys2Proof.Machine

/-- The round function's transient registers (43_feistel.md R171, 10_state.md R34). -/
structure RoundRegs where
  r : Half
  kk : SubKey
  out : Half
  deriving DecidableEq, Repr

/-- The registers before group 0: `R` rotated left by one, the round key, and an empty output (43_feistel.md R171). -/
def roundStart (x : Half) (k : SubKey) : RoundRegs := ⟨x.rotateLeft 1, k, 0#32⟩

/-- Group `t` of the eight: it looks up box `8 − t` and shifts the next group into place (43_feistel.md R171, R172). -/
def roundGroup (form : SboxForm) (t : Nat) (g : RoundRegs) : RoundRegs :=
  let i := Fin.ofNat 8 (7 - t)
  let j := g.r.extractLsb' 0 6 ^^^ g.kk.extractLsb' 0 6
  { r := g.r.rotateRight 4
    kk := g.kk >>> 6
    out :=
      match form with
      | .fused => g.out ||| sboxFused i j
      | .compact => (g.out >>> 4) ||| ((sboxCompact i j).setWidth 32 <<< 28) }

/-- `feistel(R, K)` (43_feistel.md R171). The compact form applies the round permutation once, at the end. -/
def feistel (form : SboxForm) (x : Half) (k : SubKey) : Half :=
  let g := (List.range 8).foldl (fun g t => roundGroup form t g) (roundStart x k)
  match form with
  | .fused => g.out
  | .compact => permute 32 g.out pTable

end Sys2Proof.Machine
end

