-- ==== Sys2Proof/Machine/BlockCipher.lean ====
section
/-! DEFINITION. The single-block cipher (spec/44_block_cipher.md) and the context's key composition
(spec/45_commands.md R216). -/

namespace Sys2Proof.Machine

/-- `key_index(i, dec)`: the keys in order, or in reverse when decrypting (44_block_cipher.md R192). -/
def keyIndex (i : Nat) (dec : Bool) : Fin 16 := Fin.ofNat 16 (if dec then 15 - i else i)

/-- Round `i` on the block register: swap the halves and XOR F into the low half (44_block_cipher.md R191). -/
def desRound (form : SboxForm) (ks : KeySet) (dec : Bool) (i : Nat) (x : Block) : Block :=
  swap64 x ^^^ (feistel form (low32 x) ks[keyIndex i dec]).setWidth 64

/-- The block register after rounds 0 to `n − 1` (44_block_cipher.md R191). -/
def desRounds (form : SboxForm) (ks : KeySet) (dec : Bool) : Nat → Block → Block
  | 0, x => x
  | n + 1, x => desRound form ks dec n (desRounds form ks dec n x)

/-- `des_block(x, KS, dec)` (44_block_cipher.md R191). -/
def desBlock (form : SboxForm) (x : Block) (ks : KeySet) (dec : Bool) : Block :=
  permuteInverse 64 (swap64 (desRounds form ks dec 16 (permute 64 x ipTable))) ipTable

/-- `ENC_ctx(x)`, the forward direction of the context (45_commands.md R216). -/
def encCtx (s : State) (x : Block) : Block :=
  let form := s.params.sboxForm
  let y := desBlock form x s.rk[0] false
  if s.triple then desBlock form (desBlock form y s.rk[1] true) s.rk[2] false else y

/-- `DEC_ctx(y)`, the decrypt direction of the context (45_commands.md R216). -/
def decCtx (s : State) (y : Block) : Block :=
  let form := s.params.sboxForm
  let x := if s.triple then desBlock form (desBlock form y s.rk[2] true) s.rk[1] false else y
  desBlock form x s.rk[0] true

end Sys2Proof.Machine
end

