-- ==== Sys2Proof/Machine/Chaining.lean ====
section
/-! DEFINITION. The chaining layer shared by TRANSFORM and MAC (spec/45_commands.md R218 to R224): what one block does
to the chain value, and the loop over the blocks in the access order of spec/20_memory.md R61. -/

namespace Sys2Proof.Machine

/-- Unchained encryption of a block: the chain value is the constant 0 (45_commands.md R218). -/
def ecbEncrypt (s : State) (x _cv : Block) : Block × Block := (encCtx s (x ^^^ 0#64), 0#64)

/-- Unchained decryption of a block (45_commands.md R219). -/
def ecbDecrypt (s : State) (x _cv : Block) : Block × Block := (decCtx s x ^^^ 0#64, 0#64)

/-- Chained encryption of a block: the chain value becomes the produced ciphertext (45_commands.md R220). -/
def cbcEncrypt (s : State) (x cv : Block) : Block × Block :=
  let y := encCtx s (x ^^^ cv)
  (y, y)

/-- Chained decryption of a block: the chain value becomes the saved ciphertext (45_commands.md R221). -/
def cbcDecrypt (s : State) (x cv : Block) : Block × Block := (decCtx s x ^^^ cv, x)

/-- Blocks 0 to `n − 1`, in order: block `k` is read at `src + 8k` and written at `dst + stride·k` before block `k + 1`
is read (20_memory.md R61). `f` maps a source block and the chain value to the output block and the next chain value. -/
def blockLoop (f : Block → Block → Block × Block) (src dst stride : Nat) : Nat → Block × Memory → Block × Memory
  | 0, cm => cm
  | n + 1, cm =>
    let r := blockLoop f src dst stride n cm
    let y := f (read64 r.2 (src + 8 * n)) r.1
    (y.2, write64 r.2 (dst + stride * n) y.1)

end Sys2Proof.Machine
end

