-- ==== Sys2Proof/Machine/Mac.lean ====
section
/-! DEFINITION. MAC (spec/45_commands.md R224, R225). -/

namespace Sys2Proof.Machine

/-- `MAC` (45_commands.md R224): chained encryption from a zero chain value, every block written to the same 8 bytes.
It uses the context's own composition, EDE when TRIPLE is set (R225; log 22). -/
def execMac (s : State) : Host.Outcome State Fault Refusal :=
  match firstFault (macChecks s) with
  | some r => .fault r
  | none =>
    let e := blockLoop (cbcEncrypt s) (srcAddr s) (dstAddr s) 0 (blockCount s) (0#64, s.mem)
    .next ((s.withMem e.2).withStatus 0#32)

end Sys2Proof.Machine
end

