-- ==== Sys2Proof/Machine/Transform.lean ====
section
/-! DEFINITION. The four TRANSFORM commands (spec/45_commands.md R218 to R223). -/

namespace Sys2Proof.Machine

/-- TRANSFORM without a chaining-state buffer (45_commands.md R218, R219): the blocks, then STATUS. -/
def runUnchained (f : Block → Block → Block × Block) (s : State) : Host.Outcome State Fault Refusal :=
  match firstFault (unchainedChecks s) with
  | some r => .fault r
  | none =>
    let e := blockLoop f (srcAddr s) (dstAddr s) 8 (blockCount s) (0#64, s.mem)
    .next ((s.withMem e.2).withStatus 0#32)

/-- TRANSFORM with a chaining-state buffer (45_commands.md R220 to R222): the buffer is read before the first block
and written back after the last. -/
def runChained (f : Block → Block → Block × Block) (s : State) : Host.Outcome State Fault Refusal :=
  match firstFault (chainedChecks s) with
  | some r => .fault r
  | none =>
    let e := blockLoop f (srcAddr s) (dstAddr s) 8 (blockCount s) (read64 s.mem (ivAddr s), s.mem)
    .next ((s.withMem (write64 e.2 (ivAddr s) e.1)).withStatus 0#32)

/-- `TRANSFORM.E` (45_commands.md R218). -/
def execTransformE (s : State) : Host.Outcome State Fault Refusal := runUnchained (ecbEncrypt s) s

/-- `TRANSFORM.D` (45_commands.md R219). -/
def execTransformD (s : State) : Host.Outcome State Fault Refusal := runUnchained (ecbDecrypt s) s

/-- `TRANSFORM.E.CBC` (45_commands.md R220). -/
def execTransformECbc (s : State) : Host.Outcome State Fault Refusal := runChained (cbcEncrypt s) s

/-- `TRANSFORM.D.CBC` (45_commands.md R221). -/
def execTransformDCbc (s : State) : Host.Outcome State Fault Refusal := runChained (cbcDecrypt s) s

end Sys2Proof.Machine
end

