-- ==== Sys2Proof/Machine/Dispatch.lean ====
section
/-! DEFINITION. One arm per command of the opcode table (spec/30_encoding.md R83). -/

namespace Sys2Proof.Machine

def exec (i : Instr) (s : State) : Host.Outcome State Fault Refusal :=
  match i with
  | .construct => Sys2Proof.Machine.execConstruct s
  | .init => Sys2Proof.Machine.execInit s
  | .transformE => Sys2Proof.Machine.execTransformE s
  | .transformD => Sys2Proof.Machine.execTransformD s
  | .transformECbc => Sys2Proof.Machine.execTransformECbc s
  | .transformDCbc => Sys2Proof.Machine.execTransformDCbc s
  | .mac => Sys2Proof.Machine.execMac s

end Sys2Proof.Machine
end

