-- ==== Sys2Proof/Machine/HostPort.lean ====
section
/-! DEFINITION. The host interface (spec/10_state.md R28 to R33): the register file the host sees, the CMD write that
starts a command (R29, spec/45_commands.md R210), the host's own memory accesses, and reset
(spec/70_reset_and_hazards.md R290, R291). -/

namespace Sys2Proof.Machine

/-- The register number an access names. A memory-mapped register `n` sits at `REG_BASE + 8n` (10_state.md R28);
an address that is no register's start names none (log 12). -/
def regNumber (p : Params) : RegSel → Option Nat
  | .num n => some n
  | .addr a =>
    if p.regBase.toNat ≤ a.toNat ∧ (a.toNat - p.regBase.toNat) % 8 = 0 then
      some ((a.toNat - p.regBase.toNat) / 8)
    else none

/-- The register with number `n`; 3 and everything above 7 is reserved (10_state.md R28, R33). -/
def regAt : Nat → Option HostReg
  | 0 => some .cmd
  | 1 => some .status
  | 2 => some .info
  | 4 => some (.arg 0)
  | 5 => some (.arg 1)
  | 6 => some (.arg 2)
  | 7 => some (.arg 3)
  | _ => none

/-- The register an access names, if it is one. -/
def selectReg (p : Params) (r : RegSel) : Option HostReg := (regNumber p r).bind regAt

/-- The one width each register is accessed at (10_state.md R28). -/
def regWidth : HostReg → AccessWidth
  | .cmd => .w32
  | .status => .w32
  | .info => .w32
  | .arg _ => .w64

/-- A write of `w` to CMD (10_state.md R29, 45_commands.md R210): the command it encodes, or a refusal. -/
def runCommand (w : CmdWord) (s : State) : Host.Outcome State Fault Refusal :=
  match decode w with
  | .ok i => exec i s
  | .error _ => .refused .reservedCommand

/-- A host write of a register at the register's own width (10_state.md R29, R30, R33). -/
def writeReg (reg : HostReg) (v : BitVec 64) (s : State) : Host.Outcome State Fault Refusal :=
  match reg with
  | .cmd => runCommand (v.setWidth 32) s
  | .status => .refused .reservedAccess
  | .info => .refused .reservedAccess
  | .arg n => .next (writeArg s n v)

/-- A host read of a register at the register's own width (10_state.md R30 to R33). -/
def readReg (reg : HostReg) (s : State) : Host.Outcome State Fault Refusal :=
  match reg with
  | .cmd => .refused .reservedAccess
  | .status => .next (s.withReply (some (.word s.status)))
  | .info => .next (s.withReply (some (.word (infoWord s))))
  | .arg n =>
    if argWritten s n then .next (s.withReply (some (.dword (argValue s n)))) else .fault .unwrittenOperand

/-- The host's store of one byte (20_memory.md R63). Outside `Mapped` there is no byte: DESIGN CHOICE, `OutOfBounds`
(log 13). -/
def hostStore (a : BitVec 64) (b : Byte) (s : State) : Host.Outcome State Fault Refusal :=
  if admitted s.params ⟨a.toNat, 1⟩ then .next (s.withMem (writeByte s.mem a.toNat b)) else .fault .outOfBounds

/-- The host's load of one byte (20_memory.md R63; log 13). -/
def hostLoad (a : BitVec 64) (s : State) : Host.Outcome State Fault Refusal :=
  if admitted s.params ⟨a.toNat, 1⟩ then .next (s.withReply (some (.byte (readByte s.mem a.toNat))))
  else .fault .outOfBounds

/-- Reset: the core's state takes the values of 10_state.md R37. It does not touch buffer memory
(70_reset_and_hazards.md R290); the parameters and the host's own fields stay (log 14). -/
def applyReset (s : State) : State :=
  (((State.reset.withMem s.mem).withHost s.host).withReply s.reply).withParams s.params

/-- One action of the host. An access to no register, or at a width that is not the register's, is refused
(10_state.md R33). -/
def hostAct (a : HostAction) (s : State) : Host.Outcome State Fault Refusal :=
  match a with
  | .regWrite r w v =>
    match selectReg s.params r with
    | some reg => if w = regWidth reg then writeReg reg v s else .refused .reservedAccess
    | none => .refused .reservedAccess
  | .regRead r w =>
    match selectReg s.params r with
    | some reg => if w = regWidth reg then readReg reg s else .refused .reservedAccess
    | none => .refused .reservedAccess
  | .memStore a b => hostStore a b s
  | .memLoad a => hostLoad a s
  | .reset => .next (applyReset s)

/-- One step: nothing if a mark is set (10_state.md R36), idling if the host does nothing (10_state.md R20,
60_exceptions.md R273), else the host's next action. -/
def stepHost (s : State) : Host.Outcome State Fault Refusal :=
  match stopped s with
  | some o => o
  | none =>
    match s.host with
    | [] => .next s
    | a :: rest => hostAct a (s.withHost rest)

/-- Puts a CMD write of an instruction's bits before the host's other actions. More than 32 bits are no command word,
so they go out as a wider access (30_encoding.md R80; log 21). -/
def placeCommand (nbits w : Nat) (s : State) : State :=
  s.withHost (.regWrite (.num 0) (if nbits ≤ 32 then .w32 else .w64) (BitVec.ofNat 64 w) :: s.host)

end Sys2Proof.Machine
end

