-- ==== Sys2Proof/Machine/Step.lean ====
section
/-! DEFINITION. One step of the machine, and the placing of the next command word. -/

namespace Sys2Proof.Machine

/-- One step (spec/00_scope.md R7, spec/10_state.md R20). -/
def step (s : State) : Host.Outcome State Fault Refusal := stepHost s

/-- The state in which the host's next action is the CMD write of `w`. The core fetches nothing from memory
(spec/20_memory.md R65): a command comes to run by that write alone (log 1, log 21). -/
def State.withFetchWord (s : State) (nbits w : Nat) : State := placeCommand nbits w s

end Sys2Proof.Machine
end

