-- ==== Sys2Proof/Machine/Assembler.lean ====
section
/-! DEFINITION. The assembler syntax for host programs (spec/30_encoding.md R88, R89): what each statement makes the
host do, and what each pseudo-instruction expands to. -/

namespace Sys2Proof.Machine

/-- The host action of a statement (30_encoding.md R88), by register number (10_state.md R28). -/
def stmtAction : HostStmt → HostAction
  | .warg n v => .regWrite (.num (4 + n.val)) .w64 v
  | .cmd w => .regWrite (.num 0) .w32 (w.setWidth 64)
  | .rd .cmd => .regRead (.num 0) .w32
  | .rd .status => .regRead (.num 1) .w32
  | .rd .info => .regRead (.num 2) .w32
  | .rd (.arg n) => .regRead (.num (4 + n.val)) .w64

/-- The command a pseudo-instruction ends with (30_encoding.md R89). -/
def pseudoInstr : Pseudo → Instr
  | .construct => .construct
  | .init _ _ => .init
  | .transformE _ _ _ => .transformE
  | .transformD _ _ _ => .transformD
  | .transformECbc _ _ _ _ => .transformECbc
  | .transformDCbc _ _ _ _ => .transformDCbc
  | .mac _ _ _ => .mac

/-- The operands a pseudo-instruction writes, ARG0 first (30_encoding.md R89). -/
def pseudoArgs : Pseudo → List (Fin 4 × BitVec 64)
  | .construct => []
  | .init key bits => [(0, key), (1, bits)]
  | .transformE dst src n => [(0, dst), (1, src), (2, n)]
  | .transformD dst src n => [(0, dst), (1, src), (2, n)]
  | .transformECbc dst src n iv => [(0, dst), (1, src), (2, n), (3, iv)]
  | .transformDCbc dst src n iv => [(0, dst), (1, src), (2, n), (3, iv)]
  | .mac dst src n => [(0, dst), (1, src), (2, n)]

/-- The expansion: the WARG statements, then one CMD (30_encoding.md R89). -/
def expandPseudo (p : Pseudo) : List HostStmt :=
  ((pseudoArgs p).map fun a => HostStmt.warg a.1 a.2) ++ [.cmd (encode (pseudoInstr p))]

/-- The host actions of a host program of pseudo-instructions. -/
def programActions (ps : List Pseudo) : List HostAction := (ps.flatMap expandPseudo).map stmtAction

end Sys2Proof.Machine
end

