-- ==== Sys2Proof/Safety.lean ====
section
/-! DEFINITION. The terms claims are stated in: when a command completes (spec/60_exceptions.md R265, R267), what a
block and a chain value are (spec/45_commands.md R218 to R224), what every step keeps, and when two states cannot be
told apart through the interface. -/

namespace Sys2Proof.Machine

/-! ### When a command completes -/

/-- The host has provided the byte at this address (00_scope.md R9, 20_memory.md R50). -/
def IsMapped (p : Params) (x : Nat) : Prop := ∃ r ∈ p.mapped, r.base ≤ x ∧ x < r.base + r.size

/-- The region `[a, a + n)` is admitted (20_memory.md R56). -/
def RegionOk (p : Params) (a n : Nat) : Prop :=
  0 < n → a + n ≤ 2 ^ 64 ∧ ∀ x, a ≤ x → x < a + n → IsMapped p x

/-- The region `[a, a + n)` passes the alignment check (20_memory.md R57). -/
def AlignOk (p : Params) (a n : Nat) : Prop := p.alignCheck = true → 0 < n → a % 8 = 0

/-- INIT derives a key: its operands are written, the length is 64 or 192, and the key region is readable
(60_exceptions.md R267). -/
structure InitReady (s : State) : Prop where
  bitsWritten : argWritten s 1 = true
  length : keyBits s = 64 ∨ keyBits s = 192
  addrWritten : argWritten s 0 = true
  aligned : AlignOk s.params (keyAddr s) (keyBits s / 8)
  bounds : RegionOk s.params (keyAddr s) (keyBits s / 8)

/-- TRANSFORM without chaining passes every check (60_exceptions.md R267). -/
structure UnchainedReady (s : State) : Prop where
  dstWritten : argWritten s 0 = true
  srcWritten : argWritten s 1 = true
  countWritten : argWritten s 2 = true
  key : s.keyValid = true
  srcAligned : AlignOk s.params (srcAddr s) (8 * blockCount s)
  dstAligned : AlignOk s.params (dstAddr s) (8 * blockCount s)
  srcBounds : RegionOk s.params (srcAddr s) (8 * blockCount s)
  dstBounds : RegionOk s.params (dstAddr s) (8 * blockCount s)
  overlap : dstAddr s = srcAddr s ∨ dstAddr s + 8 * blockCount s ≤ srcAddr s ∨
    srcAddr s + 8 * blockCount s ≤ dstAddr s

/-- TRANSFORM with chaining passes every check (60_exceptions.md R267). The chaining-state region may overlap the
others (20_memory.md R60). -/
structure ChainedReady (s : State) : Prop extends UnchainedReady s where
  ivWritten : argWritten s 3 = true
  ivAligned : AlignOk s.params (ivAddr s) 8
  ivBounds : RegionOk s.params (ivAddr s) 8

/-- MAC passes every check (60_exceptions.md R267, 20_memory.md R59). -/
structure MacReady (s : State) : Prop where
  dstWritten : argWritten s 0 = true
  srcWritten : argWritten s 1 = true
  countWritten : argWritten s 2 = true
  key : s.keyValid = true
  srcAligned : AlignOk s.params (srcAddr s) (8 * blockCount s)
  dstAligned : 0 < blockCount s → AlignOk s.params (dstAddr s) 8
  srcBounds : RegionOk s.params (srcAddr s) (8 * blockCount s)
  dstBounds : 0 < blockCount s → RegionOk s.params (dstAddr s) 8
  overlap : 0 < blockCount s → dstAddr s = srcAddr s ∨ dstAddr s + 8 ≤ srcAddr s ∨
    srcAddr s + 8 * blockCount s ≤ dstAddr s

/-- From every state with this state's KEY_VALID, TRANSFORM and MAC with written operands fault with `Uninitialized`
(60_exceptions.md R264, R267). -/
def KeylessCommandsFault (t : State) : Prop :=
  ∀ u : State, u.keyValid = t.keyValid → (∀ n : Fin 4, argWritten u n = true) →
    ∀ i ∈ [Instr.transformE, .transformD, .transformECbc, .transformDCbc, .mac], exec i u = .fault .uninitialized

/-- No sticky mark is set (10_state.md R36). -/
def Unmarked (s : State) : Prop := s.faultMark = none ∧ s.refusedMark = none

/-! ### Blocks and chain values -/

/-- Source block `k` (20_memory.md R61). -/
def srcBlock (s : State) (k : Nat) : Block := read64 s.mem (srcAddr s + 8 * k)

/-- The chaining state in memory (20_memory.md R61). -/
def ivBlock (s : State) : Block := read64 s.mem (ivAddr s)

/-- The chain value of chained encryption before block `k`, from `iv`: each ciphertext block in turn
(45_commands.md R220, R224). -/
def cipherChain (s : State) (iv : Block) : Nat → Block
  | 0 => iv
  | k + 1 => encCtx s (srcBlock s k ^^^ cipherChain s iv k)

/-- The chain value of chained decryption before block `k`, from `iv`: the ciphertext block read last
(45_commands.md R221). -/
def savedChain (s : State) (iv : Block) : Nat → Block
  | 0 => iv
  | k + 1 => srcBlock s k

/-- The address lies in `[a, a + n)`. -/
def InRegion (x a n : Nat) : Prop := a ≤ x ∧ x < a + n

/-- `[a, a + n)` and `[b, b + k)` share no address. -/
def Apart (a n b k : Nat) : Prop := a + n ≤ b ∨ b + k ≤ a

/-- Two states hold the same cipher context, under the same parameters. -/
def SameContext (s t : State) : Prop :=
  s.params = t.params ∧ s.rk = t.rk ∧ s.triple = t.triple ∧ s.keyValid = t.keyValid

/-! ### What every step keeps -/

/-- The round-key file holds schedules in every key set the context uses (10_state.md R23). -/
def HoldsSchedules (s : State) : Prop :=
  (∃ k, s.rk[0] = genRoundKeys k) ∧
    (s.triple = true → (∃ k, s.rk[1] = genRoundKeys k) ∧ ∃ k, s.rk[2] = genRoundKeys k)

/-- The machine's invariant: memory is canonical and inside the address space, `ERR_INVAL` is negative, STATUS is 0
or `ERR_INVAL`, a valid key means derived schedules, and no mark is set on a run that goes on. -/
structure Inv (s : State) : Prop where
  memForm : Memory.wf s.mem = true
  memSpace : Memory.inSpace s.mem = true
  params : Params.wf s.params = true
  status : s.status = 0#32 ∨ s.status = s.params.errInval
  schedules : s.keyValid = true → HoldsSchedules s
  unmarked : Unmarked s

/-! ### What the interface cannot tell apart -/

/-- Two outcomes agree: the same fault, the same refusal, or next states that are related. -/
def OutcomeRel (R : State → State → Prop) :
    Host.Outcome State Fault Refusal → Host.Outcome State Fault Refusal → Prop
  | .next s, .next t => R s t
  | .fault f, .fault g => f = g
  | .refused f, .refused g => f = g
  | _, _ => False

/-- The states agree on everything but the round-key file. -/
def AgreeButKeys (s t : State) : Prop := s.withRk t.rk = t

/-- The states differ at most in key sets the context does not use: sets 1 and 2 when `TRIPLE = 0` (10_state.md R24),
and every set when `KEY_VALID = 0` (45_commands.md R213). -/
def HiddenKeysDiffer (s t : State) : Prop :=
  AgreeButKeys s t ∧
    (s.keyValid = true → s.rk[0] = t.rk[0] ∧ (s.triple = true → s.rk[1] = t.rk[1] ∧ s.rk[2] = t.rk[2]))

/-- The states differ at most in which substitution ROM the core holds (41_sbox.md R136, R139). -/
def FormsDiffer (s t : State) : Prop :=
  s.withParams (Params.mk t.params.sboxForm s.params.alignCheck s.params.errInval s.params.mapped s.params.regBase) = t

/-! ### Safe runs -/

/-- A run of `n` steps that neither faults nor is refused (00_scope.md R13). -/
def SafeRun (s : State) (n : Nat) : Prop := ∃ t, Sys2Proof.core.run n s = .next t

end Sys2Proof.Machine
end

