-- ==== Sys2Proof/Certificates/Slice0/Obligations.lean ====
section
/-! DEFINITION. The statements for the provers. Each docstring names the rule of the spec it formalises or rests on. -/

open Sys2Proof Sys2Proof.Machine

/-! ### Command words -/

/-- The seven words of 30_encoding.md R83, written out, decode to the seven commands. -/
def Obligations.TableWordsDecode : Prop :=
  decode 0x00000001#32 = .ok .construct ∧ decode 0x00000002#32 = .ok .init ∧
  decode 0x00000003#32 = .ok .transformE ∧ decode 0x00000013#32 = .ok .transformD ∧
  decode 0x00000023#32 = .ok .transformECbc ∧ decode 0x00000033#32 = .ok .transformDCbc ∧
  decode 0x00000004#32 = .ok .mac

/-- Every instruction, encoded and decoded, is itself (30_encoding.md R80 to R83). -/
def Obligations.DecodeUndoesEncode : Prop := ∀ i : Instr, decode (encode i) = .ok i

/-- No other word of all 2^32 decodes: a word that decodes to an instruction is that instruction's own word
(30_encoding.md R83, R84). -/
def Obligations.DecodeAcceptsOnlyTableWords : Prop :=
  ∀ (w : CmdWord) (i : Instr), decode w = .ok i → w = encode i

/-- A CMD write of a word outside the table is refused with `ReservedCommand`, and the refusal leaves everything but
the REFUSED mark (30_encoding.md R84, 45_commands.md R210). -/
def Obligations.ReservedWordsAreRefused : Prop :=
  ∀ (s : State) (rest : List HostAction) (v : BitVec 64), Unmarked s →
    (∀ i : Instr, v.setWidth 32 ≠ encode i) →
    let c := s.withHost (.regWrite (.num 0) .w32 v :: rest)
    step c = .refused .reservedCommand ∧ recordOutcome c (step c) = c.withRefusedMark (some .reservedCommand)

/-- A step at an unmarked state whose next host action writes CMD runs the decoded instruction, after taking the
action off the host's list (10_state.md R29, 45_commands.md R210). -/
def Obligations.StepRunsDecodedCommand : Prop :=
  ∀ (s : State) (rest : List HostAction) (v : BitVec 64) (i : Instr), Unmarked s →
    s.host = .regWrite (.num 0) .w32 v :: rest → decode (v.setWidth 32) = .ok i →
    step s = exec i (s.withHost rest)

/-- Placing an instruction's word makes the next step run exactly it. How a word is placed is the model's choice (log 21). -/
def Obligations.PlacedWordRunsNext : Prop :=
  ∀ (s : State) (i : Instr), Unmarked s →
    decodeTableWord 32 (encode i).toNat = some i ∧ step (s.withFetchWord 32 (encode i).toNat) = exec i s

/-! ### The host interface -/

/-- Every access with no meaning is refused with `ReservedAccess`: registers 3 and above 7, reads of CMD, writes of
STATUS and INFO, and every wrong width (10_state.md R33). -/
def Obligations.ReservedAccessesAreRefused : Prop :=
  ∀ (s : State) (rest : List HostAction) (n : Nat) (w : AccessWidth) (v : BitVec 64), Unmarked s →
    let reads := step (s.withHost (.regRead (.num n) w :: rest))
    let writes := step (s.withHost (.regWrite (.num n) w v :: rest))
    ((n = 3 ∨ 7 < n) → reads = .refused .reservedAccess ∧ writes = .refused .reservedAccess) ∧
    (n = 0 → reads = .refused .reservedAccess) ∧
    ((n = 1 ∨ n = 2) → writes = .refused .reservedAccess) ∧
    (n ≤ 2 → w ≠ .w32 → reads = .refused .reservedAccess ∧ writes = .refused .reservedAccess) ∧
    (4 ≤ n → n ≤ 7 → w ≠ .w64 → reads = .refused .reservedAccess ∧ writes = .refused .reservedAccess)

/-- A host read of STATUS, INFO or an ARG returns the register; a read of an unwritten ARG faults (10_state.md R30 to
R32). The field that holds what was returned is the model's own (log 10). -/
def Obligations.RegisterReadsReturnValues : Prop :=
  ∀ (s : State) (rest : List HostAction) (n : Fin 4), Unmarked s →
    step (s.withHost (.regRead (.num 1) .w32 :: rest)) =
      .next ((s.withHost rest).withReply (some (.word s.status))) ∧
    step (s.withHost (.regRead (.num 2) .w32 :: rest)) =
      .next ((s.withHost rest).withReply (some (.word (infoWord s)))) ∧
    (argWritten s n = true → step (s.withHost (.regRead (.num (4 + n.val)) .w64 :: rest)) =
      .next ((s.withHost rest).withReply (some (.dword (argValue s n))))) ∧
    (argWritten s n = false → step (s.withHost (.regRead (.num (4 + n.val)) .w64 :: rest)) =
      .fault .unwrittenOperand)

/-- A host write of ARGn stores the value, sets the mark, and changes nothing else (10_state.md R30). -/
def Obligations.ArgWriteStoresAndMarks : Prop :=
  ∀ (s : State) (rest : List HostAction) (n : Fin 4) (v : BitVec 64), Unmarked s →
    ∃ t, step (s.withHost (.regWrite (.num (4 + n.val)) .w64 v :: rest)) = .next t ∧
      argValue t n = v ∧ argWritten t n = true ∧
      (∀ m : Fin 4, m ≠ n → argValue t m = argValue s m ∧ argWritten t m = argWritten s m) ∧
      t = (s.withHost rest).withArgs t.args

/-- INFO: bit 0 is KEY_VALID, bit 1 is TRIPLE, and every other bit reads as zero (10_state.md R32). -/
def Obligations.InfoShowsTheFlags : Prop :=
  ∀ s : State, (infoWord s).getLsbD 0 = s.keyValid ∧ (infoWord s).getLsbD 1 = s.triple ∧
    ∀ i, 2 ≤ i → (infoWord s).getLsbD i = false

/-- A memory-mapped register `n` sits at byte offset 8n from `REG_BASE` (10_state.md R28), wherever that is an
address. -/
def Obligations.MappedRegistersSitEightApart : Prop :=
  ∀ (p : Params) (n : Nat), p.regBase.toNat + 8 * n < 2 ^ 64 →
    selectReg p (.addr (p.regBase + BitVec.ofNat 64 (8 * n))) = selectReg p (.num n)

/-- The core never starts a step by itself: where the host does nothing, a step changes nothing (10_state.md R20,
60_exceptions.md R273; that the model then takes an idle step is log 1). -/
def Obligations.CoreIdlesWithoutTheHost : Prop :=
  ∀ s : State, Unmarked s → s.host = [] → step s = .next s

/-- The host's bytes: a store changes the byte at its address and no other, and a load returns the byte last stored
(20_memory.md R63). Outside `Mapped` both fault, which is the model's own choice (log 13). -/
def Obligations.HostBytesAreSequential : Prop :=
  ∀ (s : State) (rest : List HostAction) (a : BitVec 64) (b : Byte), Unmarked s →
    (IsMapped s.params a.toNat →
      (∃ t, step (s.withHost (.memStore a b :: rest)) = .next t ∧ t = (s.withHost rest).withMem t.mem ∧
        ∀ x, readByte t.mem x = if x = a.toNat then b else readByte s.mem x) ∧
      step (s.withHost (.memLoad a :: rest)) =
        .next ((s.withHost rest).withReply (some (.byte (readByte s.mem a.toNat))))) ∧
    (¬IsMapped s.params a.toNat →
      step (s.withHost (.memStore a b :: rest)) = .fault .outOfBounds ∧
      step (s.withHost (.memLoad a :: rest)) = .fault .outOfBounds)

/-- The two sticky marks: a marked state repeats its outcome, a step that goes on sets no mark, and a step that stops
leaves everything but its mark (10_state.md R36, 60_exceptions.md R263, R266; how a mark is recorded is log 15). -/
def Obligations.MarksAreSticky : Prop :=
  ∀ s : State,
    (∀ f, s.faultMark = some f → step s = .fault f) ∧
    (∀ r, s.faultMark = none → s.refusedMark = some r → step s = .refused r) ∧
    (∀ t, step s = .next t → Unmarked s ∧ Unmarked t) ∧
    (∀ f, step s = .fault f → recordOutcome s (step s) = s.withFaultMark (some f) ∧
      step (recordOutcome s (step s)) = .fault f) ∧
    (∀ r, step s = .refused r → recordOutcome s (step s) = s.withRefusedMark (some r) ∧
      step (recordOutcome s (step s)) = .refused r)

/-- The expansion of a pseudo-instruction: the WARG steps write its operands in order, and the step after them runs
its command (30_encoding.md R89). -/
def Obligations.PseudoInstructionsExpand : Prop :=
  ∀ (s : State) (p : Pseudo), Unmarked s →
    let ready := (pseudoArgs p).foldl (fun t a => writeArg t a.1 a.2) s
    Sys2Proof.core.run (pseudoArgs p).length (s.withHost (programActions [p])) =
      .next (ready.withHost [stmtAction (.cmd (encode (pseudoInstr p)))]) ∧
    step (ready.withHost [stmtAction (.cmd (encode (pseudoInstr p)))]) = exec (pseudoInstr p) (ready.withHost [])

/-! ### Reset -/

/-- The values the spec gives for reset (10_state.md R37, 70_reset_and_hazards.md R290). -/
def Obligations.ResetValues : Prop :=
  (∀ (j : Fin 3) (r : Fin 16), State.reset.rk[j][r] = 0#48) ∧ State.reset.triple = false ∧
    State.reset.keyValid = false ∧ State.reset.status = 0#32 ∧ infoWord State.reset = 0#32 ∧
    (∀ n : Fin 4, argWritten State.reset n = false) ∧ Unmarked State.reset

/-- Reset between commands gives the core those values and leaves buffer memory alone (70_reset_and_hazards.md R290,
R291). That it keeps the parameters and the host's coming actions is the model's own (log 14). -/
def Obligations.ResetActionResetsTheCore : Prop :=
  ∀ (s : State) (rest : List HostAction), Unmarked s →
    ∃ t, step (s.withHost (.reset :: rest)) = .next t ∧
      (∀ (j : Fin 3) (r : Fin 16), t.rk[j][r] = 0#48) ∧ t.triple = false ∧ t.keyValid = false ∧ t.status = 0#32 ∧
      (∀ n : Fin 4, argWritten t n = false) ∧ Unmarked t ∧ t.mem = s.mem ∧ t.params = s.params ∧ t.host = rest

/-- The reset state meets the machine's invariant. -/
def Obligations.ResetMeetsInv : Prop := Inv State.reset

/-- Every step keeps the machine's invariant: canonical memory inside the address space, a negative `ERR_INVAL`,
STATUS 0 or `ERR_INVAL`, schedules behind KEY_VALID (10_state.md R23, R31, R36; 20_memory.md R50). -/
def Obligations.EveryStepKeepsInv : Prop := ∀ s t : State, Inv s → step s = .next t → Inv t

/-! ### Permutations and substitution -/

/-- For a table that is a bijection of the indices below `w`, each of `permute` and `permute_inverse` undoes the other
on every `w`-bit value, and IP is such a table (40_permutation.md R113). -/
def Obligations.PermuteInverseIsInverse : Prop :=
  (∀ (w : Nat) (t : List Nat), t.length = w → t.Nodup → (∀ k ∈ t, k < w) →
    ∀ x : BitVec w, permuteInverse w (permute w x t) t = x ∧ permute w (permuteInverse w x t) t = x) ∧
  (ipTable.length = 64 ∧ ipTable.Nodup ∧ ∀ k ∈ ipTable, k < 64)

/-- The standard FP table gives the final permutation, for every value (40_permutation.md R115). -/
def Obligations.FinalPermutationTableAgrees : Prop :=
  ∀ x : Block, permuteInverse 64 x ipTable = permute 64 x fpTable

/-- The compact ROM holds the boxes, and a fused entry is the box output placed in its slot and permuted: for all 512
inputs (41_sbox.md R132, R133, R135, R137). -/
def Obligations.RomsHoldTheBoxes : Prop :=
  ∀ (i : Fin 8) (j : BitVec 6), sboxCompact i j = sboxValue i j ∧
    sboxFused i j = permute 32 ((sboxValue i j).setWidth 32 <<< (28 - 4 * i.val)) pTable

/-- The slot masks of the fused ROM: every entry inside its mask, the masks as listed, pairwise disjoint, and together
all ones (41_sbox.md R138). -/
def Obligations.FusedEntriesStayInTheirSlots : Prop :=
  (∀ (i : Fin 8) (j : BitVec 6), sboxFused i j &&& ~~~permute 32 (slotMask i) pTable = 0#32) ∧
  ((List.finRange 8).map fun i => permute 32 (slotMask i) pTable) =
    [0x00808202#32, 0x40084010#32, 0x04010104#32, 0x80401040#32, 0x21040080#32, 0x10202008#32, 0x02100401#32,
     0x08020820#32] ∧
  (∀ i j : Fin 8, i ≠ j → permute 32 (slotMask i) pTable &&& permute 32 (slotMask j) pTable = 0#32) ∧
  ((List.finRange 8).map fun i => permute 32 (slotMask i) pTable).foldl (· ||| ·) 0#32 = 0xFFFFFFFF#32

/-- The two substitution forms give one result: entry by entry, for a whole round, and in the round function
(41_sbox.md R136, 43_feistel.md R171). -/
def Obligations.SubstitutionFormsAgree : Prop :=
  (∀ (i : Fin 8) (j : BitVec 6),
    permute 32 ((sboxCompact i j).setWidth 32 <<< (28 - 4 * i.val)) pTable = sboxFused i j) ∧
  (∀ x : BitVec 48, substCompact x = substFused x) ∧
  ∀ (x : Half) (k : SubKey), feistel .compact x k = feistel .fused x k

/-- The round function is the standard one: expand by E, XOR the key, substitute, permute (43_feistel.md R173). -/
def Obligations.FeistelIsTheStandardRound : Prop :=
  ∀ (form : SboxForm) (x : Half) (k : SubKey),
    feistel form x k = permute 32 (sboxLayer (permute 48 x eTable ^^^ k)) pTable

/-- Complementing both operands of the round function does not change its result (43_feistel.md R171). -/
def Obligations.FeistelIgnoresComplement : Prop :=
  ∀ (form : SboxForm) (x : Half) (k : SubKey), feistel form (~~~x) (~~~k) = feistel form x k

/-! ### Key schedule -/

/-- Keys that differ only in the parity bits have equal schedules (42_key_schedule.md R156). -/
def Obligations.KeyScheduleIgnoresParity : Prop :=
  ∀ k k' : Block, (∀ i < 64, i % 8 ≠ 0 → k.getLsbD i = k'.getLsbD i) → genRoundKeys k = genRoundKeys k'

/-- The rotation counts, and the halves after each round: those of PC-1 rotated by the cumulative count
(42_key_schedule.md R153). -/
def Obligations.KeyHalvesRotateByTheTable : Prop :=
  (∀ r < 16, (if rotatesTwice r then 2 else 1) = [1, 1, 2, 2, 2, 2, 2, 2, 1, 2, 2, 2, 2, 2, 2, 1].getD r 0) ∧
  ∀ (k : Block), ∀ r < 16,
    let n := [1, 2, 4, 6, 8, 10, 12, 14, 15, 17, 19, 21, 23, 25, 27, 28].getD r 0
    halvesAfter k r = ⟨(selectHalves k).c.rotateLeft n, (selectHalves k).d.rotateLeft n⟩

/-- After round 15 the halves are back where PC-1 left them; and where each half is all zeros or all ones, all sixteen
round keys are equal (42_key_schedule.md R157). -/
def Obligations.KeyScheduleCloses : Prop :=
  ∀ k : Block, halvesAfter k 15 = selectHalves k ∧
    (((selectHalves k).c = 0#28 ∨ (selectHalves k).c = BitVec.allOnes 28) →
      ((selectHalves k).d = 0#28 ∨ (selectHalves k).d = BitVec.allOnes 28) →
      ∀ r q : Fin 16, (genRoundKeys k)[r] = (genRoundKeys k)[q])

/-! ### The block cipher -/

/-- One round: the new high half is the old low half, the new low half the old high half XOR F (44_block_cipher.md
R191), with the key of 44_block_cipher.md R192. -/
def Obligations.RoundSwapsAndMixes : Prop :=
  ∀ (form : SboxForm) (ks : KeySet) (dec : Bool) (i : Fin 16) (x : Block),
    high32 (desRound form ks dec i.val x) = low32 x ∧
    low32 (desRound form ks dec i.val x) = high32 x ^^^ feistel form (low32 x) (if dec then ks[15 - i.val] else ks[i])

/-- Decryption undoes encryption and encryption undoes decryption, for every schedule and block
(44_block_cipher.md R193). -/
def Obligations.BlockDirectionsInvert : Prop :=
  ∀ (form : SboxForm) (ks : KeySet) (x : Block),
    desBlock form (desBlock form x ks false) ks true = x ∧ desBlock form (desBlock form x ks true) ks false = x

/-- The complemented key encrypts the complemented block to the complemented result (44_block_cipher.md R194). -/
def Obligations.BlockComplementation : Prop :=
  ∀ (form : SboxForm) (k x : Block) (dec : Bool),
    desBlock form (~~~x) (genRoundKeys (~~~k)) dec = ~~~desBlock form x (genRoundKeys k) dec

/-- Where all sixteen keys are equal, the direction bit has no effect (44_block_cipher.md R191). -/
def Obligations.EqualKeysForgetDirection : Prop :=
  ∀ (form : SboxForm) (ks : KeySet) (x : Block), (∀ r q : Fin 16, ks[r] = ks[q]) →
    desBlock form x ks true = desBlock form x ks false

/-- In every context the two compositions undo each other, and three equal key sets give the single-key result
(45_commands.md R217). -/
def Obligations.ContextDirectionsInvert : Prop :=
  ∀ (s : State) (x : Block), decCtx s (encCtx s x) = x ∧ encCtx s (decCtx s x) = x ∧
    (s.triple = true → s.rk[0] = s.rk[1] → s.rk[1] = s.rk[2] →
      encCtx s x = desBlock s.params.sboxForm x s.rk[0] false)

/-! ### CONSTRUCT and INIT -/

/-- CONSTRUCT completes in every state: the context, INFO and STATUS are zero, everything else is as it was, and
TRANSFORM and MAC then fault with `Uninitialized` while KEY_VALID stays so (45_commands.md R211). -/
def Obligations.ConstructZeroesTheContext : Prop :=
  ∀ s : State, ∃ t, exec .construct s = .next t ∧ (∀ (j : Fin 3) (r : Fin 16), t.rk[j][r] = 0#48) ∧
    t.triple = false ∧ t.keyValid = false ∧ infoWord t = 0#32 ∧ t.status = 0#32 ∧
    t = (setContext s t.rk false false).withStatus 0#32 ∧ KeylessCommandsFault t

/-- INIT with any other length completes with `ERR_INVAL`, clears KEY_VALID, and changes nothing else, whatever memory
holds; it needs no written ARG0. While KEY_VALID stays so, TRANSFORM and MAC fault with `Uninitialized`
(45_commands.md R213). -/
def Obligations.InitRejectsOtherLengths : Prop :=
  ∀ s : State, argWritten s 1 = true → keyBits s ≠ 64 → keyBits s ≠ 192 →
    ∃ t, exec .init s = .next t ∧ t = (s.withKeyValid false).withStatus s.params.errInval ∧
      (∀ m, exec .init (s.withMem m) = .next (t.withMem m)) ∧ KeylessCommandsFault t

/-- INIT with a 64-bit key: TRIPLE is 0 and key set 0 is the schedule of key bytes 0 to 7. Key sets 1 and 2 and
everything else are as they were (45_commands.md R212, R214; 10_state.md R24; keeping sets 1 and 2 is log 16). -/
def Obligations.InitSingleDerivesKeySetZero : Prop :=
  ∀ s : State, InitReady s → keyBits s = 64 →
    ∃ t, exec .init s = .next t ∧ t.triple = false ∧ t.keyValid = true ∧ t.status = 0#32 ∧
      t.rk[0] = genRoundKeys (read64 s.mem (keyAddr s)) ∧ t.rk[1] = s.rk[1] ∧ t.rk[2] = s.rk[2] ∧
      t = (setContext s t.rk false true).withStatus 0#32

/-- INIT with a 192-bit key: TRIPLE is 1 and key set j is the schedule of key bytes 8j to 8j + 7 (45_commands.md R212,
R215). -/
def Obligations.InitTripleDerivesThreeKeySets : Prop :=
  ∀ s : State, InitReady s → keyBits s = 192 →
    ∃ t, exec .init s = .next t ∧ t.triple = true ∧ t.keyValid = true ∧ t.status = 0#32 ∧
      (∀ j : Fin 3, t.rk[j] = genRoundKeys (read64 s.mem (keyAddr s + 8 * j.val))) ∧
      t = (setContext s t.rk true true).withStatus 0#32

/-! ### TRANSFORM and MAC -/

/-- TRANSFORM.E, when its checks pass, completes: destination block k is the encryption of source block k as it was
before the command, in place or not; no other byte and no other field changes (45_commands.md R218, R226). -/
def Obligations.TransformEncryptsEachBlock : Prop :=
  ∀ s : State, UnchainedReady s →
    ∃ t, exec .transformE s = .next t ∧ t = (s.withMem t.mem).withStatus 0#32 ∧
      (∀ k < blockCount s, read64 t.mem (dstAddr s + 8 * k) = encCtx s (srcBlock s k)) ∧
      ∀ x, ¬InRegion x (dstAddr s) (8 * blockCount s) → readByte t.mem x = readByte s.mem x

/-- TRANSFORM.D, when its checks pass, completes: destination block k is the decryption of source block k
(45_commands.md R219, R226). -/
def Obligations.TransformDecryptsEachBlock : Prop :=
  ∀ s : State, UnchainedReady s →
    ∃ t, exec .transformD s = .next t ∧ t = (s.withMem t.mem).withStatus 0#32 ∧
      (∀ k < blockCount s, read64 t.mem (dstAddr s + 8 * k) = decCtx s (srcBlock s k)) ∧
      ∀ x, ¬InRegion x (dstAddr s) (8 * blockCount s) → readByte t.mem x = readByte s.mem x

/-- TRANSFORM.E.CBC, when its checks pass, completes: block k is the encryption of source block k XOR the chain value,
and the last chain value is written back over whatever lay there (45_commands.md R220, R222; 20_memory.md R60, R61). -/
def Obligations.ChainedEncryptionChains : Prop :=
  ∀ s : State, ChainedReady s →
    ∃ t, exec .transformECbc s = .next t ∧ t = (s.withMem t.mem).withStatus 0#32 ∧
      read64 t.mem (ivAddr s) = cipherChain s (ivBlock s) (blockCount s) ∧
      (∀ k < blockCount s, ∀ j < 8, ¬InRegion (dstAddr s + 8 * k + j) (ivAddr s) 8 →
        readByte t.mem (dstAddr s + 8 * k + j) =
          byteOf (encCtx s (srcBlock s k ^^^ cipherChain s (ivBlock s) k)) j) ∧
      ∀ x, ¬InRegion x (dstAddr s) (8 * blockCount s) → ¬InRegion x (ivAddr s) 8 →
        readByte t.mem x = readByte s.mem x

/-- TRANSFORM.D.CBC, when its checks pass, completes: block k is the decryption of source block k XOR the ciphertext
read before it, and the last ciphertext read is written back (45_commands.md R221, R222; 20_memory.md R60, R61). -/
def Obligations.ChainedDecryptionChains : Prop :=
  ∀ s : State, ChainedReady s →
    ∃ t, exec .transformDCbc s = .next t ∧ t = (s.withMem t.mem).withStatus 0#32 ∧
      read64 t.mem (ivAddr s) = savedChain s (ivBlock s) (blockCount s) ∧
      (∀ k < blockCount s, ∀ j < 8, ¬InRegion (dstAddr s + 8 * k + j) (ivAddr s) 8 →
        readByte t.mem (dstAddr s + 8 * k + j) =
          byteOf (decCtx s (srcBlock s k) ^^^ savedChain s (ivBlock s) k) j) ∧
      ∀ x, ¬InRegion x (dstAddr s) (8 * blockCount s) → ¬InRegion x (ivAddr s) 8 →
        readByte t.mem x = readByte s.mem x

/-- MAC, when its checks pass, completes: the destination holds the last chain value of chained encryption from zero
under the context's own composition (log 22), and no other byte changes; with N = 0 none does (45_commands.md R224,
R225). -/
def Obligations.MacKeepsTheLastChainValue : Prop :=
  ∀ s : State, MacReady s →
    ∃ t, exec .mac s = .next t ∧ t = (s.withMem t.mem).withStatus 0#32 ∧
      (0 < blockCount s → read64 t.mem (dstAddr s) = cipherChain s 0#64 (blockCount s)) ∧
      ∀ x, ¬(0 < blockCount s ∧ InRegion x (dstAddr s) 8) → readByte t.mem x = readByte s.mem x

/-- With N = 0 a command whose checks pass completes with STATUS 0 and no byte changes: the chained forms write back
the value they read (45_commands.md R223). That their 8-byte region is still checked is the model's reading (log 17). -/
def Obligations.ZeroBlocksChangeNoByte : Prop :=
  ∀ (s : State) (i : Instr), blockCount s = 0 → argWritten s 0 = true → argWritten s 1 = true →
    argWritten s 2 = true → s.keyValid = true →
    (i ∈ [Instr.transformE, .transformD, .mac] ∨
      (i ∈ [Instr.transformECbc, .transformDCbc] ∧ argWritten s 3 = true ∧ AlignOk s.params (ivAddr s) 8 ∧
        RegionOk s.params (ivAddr s) 8)) →
    ∃ t, exec i s = .next t ∧ t = (s.withMem t.mem).withStatus 0#32 ∧ ∀ x, readByte t.mem x = readByte s.mem x

/-- In place or elsewhere, the result is the same: two states in which TRANSFORM completes, with one context, one count,
the same source blocks and the same chaining state, give the same destination blocks and the same final chaining state
(45_commands.md R226, 70_reset_and_hazards.md R294). A chaining-state buffer lies apart from its destination. -/
def Obligations.InPlaceEqualsCopied : Prop :=
  ∀ (s u t v : State) (i : Instr), i ∈ [Instr.transformE, .transformD, .transformECbc, .transformDCbc] →
    dstAddr s = srcAddr s → SameContext s u → blockCount s = blockCount u →
    (∀ k < blockCount s, srcBlock s k = srcBlock u k) →
    (i ∈ [Instr.transformECbc, .transformDCbc] → ivBlock s = ivBlock u ∧
      Apart (ivAddr s) 8 (dstAddr s) (8 * blockCount s) ∧ Apart (ivAddr u) 8 (dstAddr u) (8 * blockCount u)) →
    exec i s = .next t → exec i u = .next v →
    (∀ k < blockCount s, read64 t.mem (dstAddr s + 8 * k) = read64 v.mem (dstAddr u + 8 * k)) ∧
    (i ∈ [Instr.transformECbc, .transformDCbc] → read64 t.mem (ivAddr s) = read64 v.mem (ivAddr u))

/-! ### Laws of the commands -/

/-- TRANSFORM.D of the output of TRANSFORM.E gives back the source blocks (45_commands.md R227). -/
def Obligations.UnchainedRoundTrip : Prop :=
  ∀ s t u : State, exec .transformE s = .next t → UnchainedReady u → SameContext s u →
    blockCount u = blockCount s → (∀ k < blockCount s, srcBlock u k = read64 t.mem (dstAddr s + 8 * k)) →
    ∃ v, exec .transformD u = .next v ∧
      ∀ k < blockCount s, read64 v.mem (dstAddr u + 8 * k) = srcBlock s k

/-- TRANSFORM.D.CBC with the same initial chaining state gives back the source of TRANSFORM.E.CBC, and both leave the
last ciphertext block as the chaining state, for N ≥ 1 (45_commands.md R227). The chaining-state buffers lie apart from
the destinations, so that no block is overwritten by the write-back (70_reset_and_hazards.md R296). -/
def Obligations.ChainedRoundTrip : Prop :=
  ∀ s t u : State, exec .transformECbc s = .next t → ChainedReady u → SameContext s u →
    blockCount u = blockCount s → ivBlock u = ivBlock s →
    Apart (ivAddr s) 8 (dstAddr s) (8 * blockCount s) → Apart (ivAddr u) 8 (dstAddr u) (8 * blockCount u) →
    (∀ k < blockCount s, srcBlock u k = read64 t.mem (dstAddr s + 8 * k)) →
    ∃ v, exec .transformDCbc u = .next v ∧
      (∀ k < blockCount s, read64 v.mem (dstAddr u + 8 * k) = srcBlock s k) ∧
      ∀ k, blockCount s = k + 1 →
        read64 t.mem (ivAddr s) = read64 t.mem (dstAddr s + 8 * k) ∧
        read64 v.mem (ivAddr u) = read64 t.mem (dstAddr s + 8 * k)

/-- A chained TRANSFORM of N1 + N2 blocks does what two commands do, the first N1 blocks and then the next N2 with the
same chaining buffer: both complete and every byte of memory ends the same (45_commands.md R228). The chaining buffer
lies apart from the source, which the first write-back would otherwise change. -/
def Obligations.ChainingResumes : Prop :=
  ∀ (s t : State) (i : Instr) (a b : Nat), (i = .transformECbc ∨ i = .transformDCbc) →
    exec i s = .next t → blockCount s = a + b → Apart (ivAddr s) 8 (srcAddr s) (8 * blockCount s) →
    ∃ t1 t2, exec i (writeArg s 2 (BitVec.ofNat 64 a)) = .next t1 ∧
      exec i (writeArg (writeArg (writeArg t1 0 (argValue s 0 + BitVec.ofNat 64 (8 * a))) 1
        (argValue s 1 + BitVec.ofNat 64 (8 * a))) 2 (BitVec.ofNat 64 b)) = .next t2 ∧
      t2.status = t.status ∧ ∀ x, readByte t2.mem x = readByte t.mem x

/-- The MAC of N ≥ 1 blocks is the last destination block of TRANSFORM.E.CBC on the same blocks with an all-zero
chaining state (45_commands.md R229), whose buffer lies apart from that block. With TRIPLE set this rests on MAC's use of
the context's EDE composition (45_commands.md R225; log 22). -/
def Obligations.MacIsTheLastChainedBlock : Prop :=
  ∀ (s t u : State) (k : Nat), exec .mac s = .next t → ChainedReady u → SameContext s u →
    blockCount s = k + 1 → blockCount u = k + 1 → (∀ j ≤ k, srcBlock s j = srcBlock u j) → ivBlock u = 0#64 →
    Apart (ivAddr u) 8 (dstAddr u + 8 * k) 8 →
    ∃ v, exec .transformECbc u = .next v ∧ read64 t.mem (dstAddr s) = read64 v.mem (dstAddr u + 8 * k)

/-! ### Which check fails first -/

/-- INIT's checks in order: ARG1, the length, ARG0, alignment, bounds (60_exceptions.md R267). -/
def Obligations.InitFaultsInOrder : Prop :=
  ∀ s : State,
    (argWritten s 1 = false → exec .init s = .fault .unwrittenOperand) ∧
    (argWritten s 1 = true → (keyBits s = 64 ∨ keyBits s = 192) →
      (argWritten s 0 = false → exec .init s = .fault .unwrittenOperand) ∧
      (argWritten s 0 = true → ¬AlignOk s.params (keyAddr s) (keyBits s / 8) → exec .init s = .fault .misaligned) ∧
      (argWritten s 0 = true → AlignOk s.params (keyAddr s) (keyBits s / 8) →
        ¬RegionOk s.params (keyAddr s) (keyBits s / 8) → exec .init s = .fault .outOfBounds))

/-- The checks of TRANSFORM.E and TRANSFORM.D in order: operands, key, alignment, bounds, overlap
(60_exceptions.md R267). -/
def Obligations.UnchainedFaultsInOrder : Prop :=
  ∀ (s : State) (i : Instr), (i = .transformE ∨ i = .transformD) →
    let written := argWritten s 0 = true ∧ argWritten s 1 = true ∧ argWritten s 2 = true
    let aligned := AlignOk s.params (srcAddr s) (8 * blockCount s) ∧ AlignOk s.params (dstAddr s) (8 * blockCount s)
    let inside := RegionOk s.params (srcAddr s) (8 * blockCount s) ∧ RegionOk s.params (dstAddr s) (8 * blockCount s)
    let apart := dstAddr s = srcAddr s ∨ Apart (dstAddr s) (8 * blockCount s) (srcAddr s) (8 * blockCount s)
    (¬written → exec i s = .fault .unwrittenOperand) ∧
    (written → s.keyValid = false → exec i s = .fault .uninitialized) ∧
    (written → s.keyValid = true → ¬aligned → exec i s = .fault .misaligned) ∧
    (written → s.keyValid = true → aligned → ¬inside → exec i s = .fault .outOfBounds) ∧
    (written → s.keyValid = true → aligned → inside → ¬apart → exec i s = .fault .partialOverlap)

/-- The checks of TRANSFORM.E.CBC and TRANSFORM.D.CBC in order; the chaining-state region is checked too and has no
overlap rule (60_exceptions.md R267, 20_memory.md R60). That it is checked with N = 0 too is log 17. -/
def Obligations.ChainedFaultsInOrder : Prop :=
  ∀ (s : State) (i : Instr), (i = .transformECbc ∨ i = .transformDCbc) →
    let written := argWritten s 0 = true ∧ argWritten s 1 = true ∧ argWritten s 2 = true ∧ argWritten s 3 = true
    let aligned := AlignOk s.params (srcAddr s) (8 * blockCount s) ∧
      AlignOk s.params (dstAddr s) (8 * blockCount s) ∧ AlignOk s.params (ivAddr s) 8
    let inside := RegionOk s.params (srcAddr s) (8 * blockCount s) ∧
      RegionOk s.params (dstAddr s) (8 * blockCount s) ∧ RegionOk s.params (ivAddr s) 8
    let apart := dstAddr s = srcAddr s ∨ Apart (dstAddr s) (8 * blockCount s) (srcAddr s) (8 * blockCount s)
    (¬written → exec i s = .fault .unwrittenOperand) ∧
    (written → s.keyValid = false → exec i s = .fault .uninitialized) ∧
    (written → s.keyValid = true → ¬aligned → exec i s = .fault .misaligned) ∧
    (written → s.keyValid = true → aligned → ¬inside → exec i s = .fault .outOfBounds) ∧
    (written → s.keyValid = true → aligned → inside → ¬apart → exec i s = .fault .partialOverlap)

/-- The checks of MAC in order; its 8-byte destination is checked only when N > 0 (60_exceptions.md R265, R267;
20_memory.md R59). -/
def Obligations.MacFaultsInOrder : Prop :=
  ∀ s : State,
    let written := argWritten s 0 = true ∧ argWritten s 1 = true ∧ argWritten s 2 = true
    let aligned := AlignOk s.params (srcAddr s) (8 * blockCount s) ∧
      (0 < blockCount s → AlignOk s.params (dstAddr s) 8)
    let inside := RegionOk s.params (srcAddr s) (8 * blockCount s) ∧
      (0 < blockCount s → RegionOk s.params (dstAddr s) 8)
    let apart := blockCount s = 0 ∨ dstAddr s = srcAddr s ∨ Apart (dstAddr s) 8 (srcAddr s) (8 * blockCount s)
    (¬written → exec .mac s = .fault .unwrittenOperand) ∧
    (written → s.keyValid = false → exec .mac s = .fault .uninitialized) ∧
    (written → s.keyValid = true → ¬aligned → exec .mac s = .fault .misaligned) ∧
    (written → s.keyValid = true → aligned → ¬inside → exec .mac s = .fault .outOfBounds) ∧
    (written → s.keyValid = true → aligned → inside → ¬apart → exec .mac s = .fault .partialOverlap)

/-! ### What a command leaves unchanged -/

/-- What no command changes: the parameters, the ARGs and their marks, the sticky marks and the host's fields. And
what each family leaves: CONSTRUCT and INIT no byte of memory, TRANSFORM and MAC no part of the context
(10_state.md R21, R30, R36; 20_memory.md R51). That the parameters, the host's coming actions and the last reply are
fields which no command changes is the model's own choice (logs 2, 1 and 10). -/
def Obligations.CommandsLeaveOtherFieldsAlone : Prop :=
  ∀ (s t : State) (i : Instr), exec i s = .next t →
    t.params = s.params ∧ t.args = s.args ∧ t.faultMark = s.faultMark ∧ t.refusedMark = s.refusedMark ∧
    t.host = s.host ∧ t.reply = s.reply ∧
    ((i = .construct ∨ i = .init) → t.mem = s.mem) ∧
    (i ≠ .construct → i ≠ .init → t.rk = s.rk ∧ t.triple = s.triple ∧ t.keyValid = s.keyValid)

/-- The bytes a command may store to: none for CONSTRUCT and INIT, the destination for TRANSFORM and MAC, and the
chaining-state buffer for the chained forms; every other byte reads as before (20_memory.md R51). -/
def Obligations.CommandsStoreOnlyToTheirRegions : Prop :=
  ∀ (s t : State) (i : Instr) (x : Nat), exec i s = .next t →
    ((i = .construct ∨ i = .init) → readByte t.mem x = readByte s.mem x) ∧
    ((i = .transformE ∨ i = .transformD) → ¬InRegion x (dstAddr s) (8 * blockCount s) →
      readByte t.mem x = readByte s.mem x) ∧
    ((i = .transformECbc ∨ i = .transformDCbc) → ¬InRegion x (dstAddr s) (8 * blockCount s) →
      ¬InRegion x (ivAddr s) 8 → readByte t.mem x = readByte s.mem x) ∧
    (i = .mac → ¬(0 < blockCount s ∧ InRegion x (dstAddr s) 8) → readByte t.mem x = readByte s.mem x)

/-- STATUS after a completed command: `ERR_INVAL` for an INIT with an invalid length, 0 for everything else
(60_exceptions.md R261). -/
def Obligations.StatusAfterACommand : Prop :=
  ∀ (s t : State) (i : Instr), exec i s = .next t →
    t.status = if i = .init ∧ keyBits s ≠ 64 ∧ keyBits s ≠ 192 then s.params.errInval else 0#32

/-- Only CONSTRUCT, INIT and reset change the cipher context: a step that changes a round key, TRIPLE or KEY_VALID is
one of them (10_state.md R21 to R23, R25). -/
def Obligations.OnlyKeyCommandsChangeTheContext : Prop :=
  ∀ s t : State, step s = .next t →
    (t.rk ≠ s.rk ∨ t.triple ≠ s.triple ∨ t.keyValid ≠ s.keyValid) →
    ∃ rest, s.host = .reset :: rest ∨
      ∃ r v, s.host = .regWrite r .w32 v :: rest ∧ selectReg s.params r = some .cmd ∧
        (v.setWidth 32 = encode .construct ∨ v.setWidth 32 = encode .init)

/-! ### What the interface cannot show -/

/-- Key sets the context does not use stay unobservable: sets 1 and 2 while TRIPLE is 0, all of them while KEY_VALID
is 0. Two states that differ only there answer every step alike, and stay so (10_state.md R24, R25;
45_commands.md R213). -/
def Obligations.UnusedKeySetsAreUnobservable : Prop :=
  ∀ s t : State, HiddenKeysDiffer s t → OutcomeRel HiddenKeysDiffer (step s) (step t)

/-- No result depends on which substitution form the core holds: two states that differ only in `SBOX_FORM` answer
every step alike, and stay so (41_sbox.md R136, R139). -/
def Obligations.SboxFormIsUnobservable : Prop :=
  ∀ s t : State, FormsDiffer s t → OutcomeRel FormsDiffer (step s) (step t)
end

