-- ==== Sys2Proof/Laws/State.lean ====
section
/-! SUPPORT. The fields of an updated state: one lemma per field per update, each true by unfolding. -/

namespace Sys2Proof.Machine

variable (s : State)

@[simp] theorem State.withParams_params (x : Params) : (s.withParams x).params = x := rfl
@[simp] theorem State.withParams_rk (x : Params) : (s.withParams x).rk = s.rk := rfl
@[simp] theorem State.withParams_triple (x : Params) : (s.withParams x).triple = s.triple := rfl
@[simp] theorem State.withParams_keyValid (x : Params) : (s.withParams x).keyValid = s.keyValid := rfl
@[simp] theorem State.withParams_status (x : Params) : (s.withParams x).status = s.status := rfl
@[simp] theorem State.withParams_args (x : Params) : (s.withParams x).args = s.args := rfl
@[simp] theorem State.withParams_faultMark (x : Params) : (s.withParams x).faultMark = s.faultMark := rfl
@[simp] theorem State.withParams_refusedMark (x : Params) : (s.withParams x).refusedMark = s.refusedMark := rfl
@[simp] theorem State.withParams_mem (x : Params) : (s.withParams x).mem = s.mem := rfl
@[simp] theorem State.withParams_host (x : Params) : (s.withParams x).host = s.host := rfl
@[simp] theorem State.withParams_reply (x : Params) : (s.withParams x).reply = s.reply := rfl

@[simp] theorem State.withRk_params (x : Vector KeySet 3) : (s.withRk x).params = s.params := rfl
@[simp] theorem State.withRk_rk (x : Vector KeySet 3) : (s.withRk x).rk = x := rfl
@[simp] theorem State.withRk_triple (x : Vector KeySet 3) : (s.withRk x).triple = s.triple := rfl
@[simp] theorem State.withRk_keyValid (x : Vector KeySet 3) : (s.withRk x).keyValid = s.keyValid := rfl
@[simp] theorem State.withRk_status (x : Vector KeySet 3) : (s.withRk x).status = s.status := rfl
@[simp] theorem State.withRk_args (x : Vector KeySet 3) : (s.withRk x).args = s.args := rfl
@[simp] theorem State.withRk_faultMark (x : Vector KeySet 3) : (s.withRk x).faultMark = s.faultMark := rfl
@[simp] theorem State.withRk_refusedMark (x : Vector KeySet 3) : (s.withRk x).refusedMark = s.refusedMark := rfl
@[simp] theorem State.withRk_mem (x : Vector KeySet 3) : (s.withRk x).mem = s.mem := rfl
@[simp] theorem State.withRk_host (x : Vector KeySet 3) : (s.withRk x).host = s.host := rfl
@[simp] theorem State.withRk_reply (x : Vector KeySet 3) : (s.withRk x).reply = s.reply := rfl

@[simp] theorem State.withTriple_params (x : Bool) : (s.withTriple x).params = s.params := rfl
@[simp] theorem State.withTriple_rk (x : Bool) : (s.withTriple x).rk = s.rk := rfl
@[simp] theorem State.withTriple_triple (x : Bool) : (s.withTriple x).triple = x := rfl
@[simp] theorem State.withTriple_keyValid (x : Bool) : (s.withTriple x).keyValid = s.keyValid := rfl
@[simp] theorem State.withTriple_status (x : Bool) : (s.withTriple x).status = s.status := rfl
@[simp] theorem State.withTriple_args (x : Bool) : (s.withTriple x).args = s.args := rfl
@[simp] theorem State.withTriple_faultMark (x : Bool) : (s.withTriple x).faultMark = s.faultMark := rfl
@[simp] theorem State.withTriple_refusedMark (x : Bool) : (s.withTriple x).refusedMark = s.refusedMark := rfl
@[simp] theorem State.withTriple_mem (x : Bool) : (s.withTriple x).mem = s.mem := rfl
@[simp] theorem State.withTriple_host (x : Bool) : (s.withTriple x).host = s.host := rfl
@[simp] theorem State.withTriple_reply (x : Bool) : (s.withTriple x).reply = s.reply := rfl

@[simp] theorem State.withKeyValid_params (x : Bool) : (s.withKeyValid x).params = s.params := rfl
@[simp] theorem State.withKeyValid_rk (x : Bool) : (s.withKeyValid x).rk = s.rk := rfl
@[simp] theorem State.withKeyValid_triple (x : Bool) : (s.withKeyValid x).triple = s.triple := rfl
@[simp] theorem State.withKeyValid_keyValid (x : Bool) : (s.withKeyValid x).keyValid = x := rfl
@[simp] theorem State.withKeyValid_status (x : Bool) : (s.withKeyValid x).status = s.status := rfl
@[simp] theorem State.withKeyValid_args (x : Bool) : (s.withKeyValid x).args = s.args := rfl
@[simp] theorem State.withKeyValid_faultMark (x : Bool) : (s.withKeyValid x).faultMark = s.faultMark := rfl
@[simp] theorem State.withKeyValid_refusedMark (x : Bool) : (s.withKeyValid x).refusedMark = s.refusedMark := rfl
@[simp] theorem State.withKeyValid_mem (x : Bool) : (s.withKeyValid x).mem = s.mem := rfl
@[simp] theorem State.withKeyValid_host (x : Bool) : (s.withKeyValid x).host = s.host := rfl
@[simp] theorem State.withKeyValid_reply (x : Bool) : (s.withKeyValid x).reply = s.reply := rfl

@[simp] theorem State.withStatus_params (x : BitVec 32) : (s.withStatus x).params = s.params := rfl
@[simp] theorem State.withStatus_rk (x : BitVec 32) : (s.withStatus x).rk = s.rk := rfl
@[simp] theorem State.withStatus_triple (x : BitVec 32) : (s.withStatus x).triple = s.triple := rfl
@[simp] theorem State.withStatus_keyValid (x : BitVec 32) : (s.withStatus x).keyValid = s.keyValid := rfl
@[simp] theorem State.withStatus_status (x : BitVec 32) : (s.withStatus x).status = x := rfl
@[simp] theorem State.withStatus_args (x : BitVec 32) : (s.withStatus x).args = s.args := rfl
@[simp] theorem State.withStatus_faultMark (x : BitVec 32) : (s.withStatus x).faultMark = s.faultMark := rfl
@[simp] theorem State.withStatus_refusedMark (x : BitVec 32) : (s.withStatus x).refusedMark = s.refusedMark := rfl
@[simp] theorem State.withStatus_mem (x : BitVec 32) : (s.withStatus x).mem = s.mem := rfl
@[simp] theorem State.withStatus_host (x : BitVec 32) : (s.withStatus x).host = s.host := rfl
@[simp] theorem State.withStatus_reply (x : BitVec 32) : (s.withStatus x).reply = s.reply := rfl

@[simp] theorem State.withArgs_params (x : Vector ArgReg 4) : (s.withArgs x).params = s.params := rfl
@[simp] theorem State.withArgs_rk (x : Vector ArgReg 4) : (s.withArgs x).rk = s.rk := rfl
@[simp] theorem State.withArgs_triple (x : Vector ArgReg 4) : (s.withArgs x).triple = s.triple := rfl
@[simp] theorem State.withArgs_keyValid (x : Vector ArgReg 4) : (s.withArgs x).keyValid = s.keyValid := rfl
@[simp] theorem State.withArgs_status (x : Vector ArgReg 4) : (s.withArgs x).status = s.status := rfl
@[simp] theorem State.withArgs_args (x : Vector ArgReg 4) : (s.withArgs x).args = x := rfl
@[simp] theorem State.withArgs_faultMark (x : Vector ArgReg 4) : (s.withArgs x).faultMark = s.faultMark := rfl
@[simp] theorem State.withArgs_refusedMark (x : Vector ArgReg 4) : (s.withArgs x).refusedMark = s.refusedMark := rfl
@[simp] theorem State.withArgs_mem (x : Vector ArgReg 4) : (s.withArgs x).mem = s.mem := rfl
@[simp] theorem State.withArgs_host (x : Vector ArgReg 4) : (s.withArgs x).host = s.host := rfl
@[simp] theorem State.withArgs_reply (x : Vector ArgReg 4) : (s.withArgs x).reply = s.reply := rfl

@[simp] theorem State.withFaultMark_params (x : Option Fault) : (s.withFaultMark x).params = s.params := rfl
@[simp] theorem State.withFaultMark_rk (x : Option Fault) : (s.withFaultMark x).rk = s.rk := rfl
@[simp] theorem State.withFaultMark_triple (x : Option Fault) : (s.withFaultMark x).triple = s.triple := rfl
@[simp] theorem State.withFaultMark_keyValid (x : Option Fault) : (s.withFaultMark x).keyValid = s.keyValid := rfl
@[simp] theorem State.withFaultMark_status (x : Option Fault) : (s.withFaultMark x).status = s.status := rfl
@[simp] theorem State.withFaultMark_args (x : Option Fault) : (s.withFaultMark x).args = s.args := rfl
@[simp] theorem State.withFaultMark_faultMark (x : Option Fault) : (s.withFaultMark x).faultMark = x := rfl
@[simp] theorem State.withFaultMark_refusedMark (x : Option Fault) : (s.withFaultMark x).refusedMark = s.refusedMark := rfl
@[simp] theorem State.withFaultMark_mem (x : Option Fault) : (s.withFaultMark x).mem = s.mem := rfl
@[simp] theorem State.withFaultMark_host (x : Option Fault) : (s.withFaultMark x).host = s.host := rfl
@[simp] theorem State.withFaultMark_reply (x : Option Fault) : (s.withFaultMark x).reply = s.reply := rfl

@[simp] theorem State.withRefusedMark_params (x : Option Refusal) : (s.withRefusedMark x).params = s.params := rfl
@[simp] theorem State.withRefusedMark_rk (x : Option Refusal) : (s.withRefusedMark x).rk = s.rk := rfl
@[simp] theorem State.withRefusedMark_triple (x : Option Refusal) : (s.withRefusedMark x).triple = s.triple := rfl
@[simp] theorem State.withRefusedMark_keyValid (x : Option Refusal) : (s.withRefusedMark x).keyValid = s.keyValid := rfl
@[simp] theorem State.withRefusedMark_status (x : Option Refusal) : (s.withRefusedMark x).status = s.status := rfl
@[simp] theorem State.withRefusedMark_args (x : Option Refusal) : (s.withRefusedMark x).args = s.args := rfl
@[simp] theorem State.withRefusedMark_faultMark (x : Option Refusal) : (s.withRefusedMark x).faultMark = s.faultMark := rfl
@[simp] theorem State.withRefusedMark_refusedMark (x : Option Refusal) : (s.withRefusedMark x).refusedMark = x := rfl
@[simp] theorem State.withRefusedMark_mem (x : Option Refusal) : (s.withRefusedMark x).mem = s.mem := rfl
@[simp] theorem State.withRefusedMark_host (x : Option Refusal) : (s.withRefusedMark x).host = s.host := rfl
@[simp] theorem State.withRefusedMark_reply (x : Option Refusal) : (s.withRefusedMark x).reply = s.reply := rfl

@[simp] theorem State.withMem_params (x : Memory) : (s.withMem x).params = s.params := rfl
@[simp] theorem State.withMem_rk (x : Memory) : (s.withMem x).rk = s.rk := rfl
@[simp] theorem State.withMem_triple (x : Memory) : (s.withMem x).triple = s.triple := rfl
@[simp] theorem State.withMem_keyValid (x : Memory) : (s.withMem x).keyValid = s.keyValid := rfl
@[simp] theorem State.withMem_status (x : Memory) : (s.withMem x).status = s.status := rfl
@[simp] theorem State.withMem_args (x : Memory) : (s.withMem x).args = s.args := rfl
@[simp] theorem State.withMem_faultMark (x : Memory) : (s.withMem x).faultMark = s.faultMark := rfl
@[simp] theorem State.withMem_refusedMark (x : Memory) : (s.withMem x).refusedMark = s.refusedMark := rfl
@[simp] theorem State.withMem_mem (x : Memory) : (s.withMem x).mem = x := rfl
@[simp] theorem State.withMem_host (x : Memory) : (s.withMem x).host = s.host := rfl
@[simp] theorem State.withMem_reply (x : Memory) : (s.withMem x).reply = s.reply := rfl

@[simp] theorem State.withHost_params (x : List HostAction) : (s.withHost x).params = s.params := rfl
@[simp] theorem State.withHost_rk (x : List HostAction) : (s.withHost x).rk = s.rk := rfl
@[simp] theorem State.withHost_triple (x : List HostAction) : (s.withHost x).triple = s.triple := rfl
@[simp] theorem State.withHost_keyValid (x : List HostAction) : (s.withHost x).keyValid = s.keyValid := rfl
@[simp] theorem State.withHost_status (x : List HostAction) : (s.withHost x).status = s.status := rfl
@[simp] theorem State.withHost_args (x : List HostAction) : (s.withHost x).args = s.args := rfl
@[simp] theorem State.withHost_faultMark (x : List HostAction) : (s.withHost x).faultMark = s.faultMark := rfl
@[simp] theorem State.withHost_refusedMark (x : List HostAction) : (s.withHost x).refusedMark = s.refusedMark := rfl
@[simp] theorem State.withHost_mem (x : List HostAction) : (s.withHost x).mem = s.mem := rfl
@[simp] theorem State.withHost_host (x : List HostAction) : (s.withHost x).host = x := rfl
@[simp] theorem State.withHost_reply (x : List HostAction) : (s.withHost x).reply = s.reply := rfl

@[simp] theorem State.withReply_params (x : Option Reply) : (s.withReply x).params = s.params := rfl
@[simp] theorem State.withReply_rk (x : Option Reply) : (s.withReply x).rk = s.rk := rfl
@[simp] theorem State.withReply_triple (x : Option Reply) : (s.withReply x).triple = s.triple := rfl
@[simp] theorem State.withReply_keyValid (x : Option Reply) : (s.withReply x).keyValid = s.keyValid := rfl
@[simp] theorem State.withReply_status (x : Option Reply) : (s.withReply x).status = s.status := rfl
@[simp] theorem State.withReply_args (x : Option Reply) : (s.withReply x).args = s.args := rfl
@[simp] theorem State.withReply_faultMark (x : Option Reply) : (s.withReply x).faultMark = s.faultMark := rfl
@[simp] theorem State.withReply_refusedMark (x : Option Reply) : (s.withReply x).refusedMark = s.refusedMark := rfl
@[simp] theorem State.withReply_mem (x : Option Reply) : (s.withReply x).mem = s.mem := rfl
@[simp] theorem State.withReply_host (x : Option Reply) : (s.withReply x).host = s.host := rfl
@[simp] theorem State.withReply_reply (x : Option Reply) : (s.withReply x).reply = x := rfl

end Sys2Proof.Machine
end

