-- ==== Sys2Proof/Laws/Memory.lean ====
section
/-! SUPPORT. What the memory operations do: a byte read after a byte write, an eight-byte access in terms of its bytes,
the canonical form, and the meaning of an admitted region. -/

namespace Sys2Proof.Machine

/-! ### One byte -/

theorem readByte_eraseCell (m : Memory) (a x : Nat) :
    readByte (eraseCell a m) x = if x = a then unlistedByte else readByte m x := by
  induction m with
  | nil => simp [eraseCell, readByte]
  | cons c m ih =>
    obtain ⟨k, b⟩ := c
    simp only [eraseCell] at ih ⊢
    by_cases hk : k = a
    · subst hk
      by_cases hx : x = k
      · subst hx; simpa using ih
      · simp [readByte, ih, hx, Ne.symm hx]
    · by_cases hx : k = x
      · subst hx; simp [readByte, hk]
      · simp [readByte, hk, hx, ih]

theorem readByte_insertCell (m : Memory) (a x : Nat) (b : Byte) (h : ∀ c ∈ m, c.1 ≠ a) :
    readByte (insertCell a b m) x = if x = a then b else readByte m x := by
  induction m with
  | nil => simp [insertCell, readByte, eq_comm]
  | cons c m ih =>
    obtain ⟨k, v⟩ := c
    have hk : k ≠ a := h (k, v) (by simp)
    have ih := ih fun c hc => h c (by simp [hc])
    by_cases hlt : a < k
    · simp [insertCell, hlt, readByte, eq_comm]
    · by_cases hx : k = x
      · subst hx; simp [insertCell, hlt, readByte, hk]
      · simp [insertCell, hlt, readByte, hx, ih]

theorem mem_eraseCell {m : Memory} {a : Nat} {c : Host.Cell} : c ∈ eraseCell a m ↔ c ∈ m ∧ c.1 ≠ a := by
  simp [eraseCell]

/-- A byte read after a byte write: the written byte at its address, and the old byte everywhere else. -/
theorem readByte_writeByte (m : Memory) (a x : Nat) (b : Byte) :
    readByte (writeByte m a b) x = if x = a then b else readByte m x := by
  unfold writeByte
  split
  · next hb => rw [readByte_eraseCell, hb]
  · rw [readByte_insertCell _ _ _ _ fun c hc => (mem_eraseCell.1 hc).2, readByte_eraseCell]
    split <;> rfl

/-! ### The canonical form -/

theorem Memory.wf_iff (m : Memory) :
    Memory.wf m = true ↔ m.Pairwise (fun c d => c.1 < d.1) ∧ ∀ c ∈ m, c.2 ≠ unlistedByte := by
  simp [Memory.wf]

theorem Memory.inSpace_iff (m : Memory) : Memory.inSpace m = true ↔ ∀ c ∈ m, c.1 < Config.addrLimit := by
  simp [Memory.inSpace]

theorem mem_insertCell {m : Memory} {a : Nat} {b : Byte} {c : Host.Cell} :
    c ∈ insertCell a b m ↔ c = (a, b) ∨ c ∈ m := by
  induction m with
  | nil => simp [insertCell]
  | cons d m ih =>
    unfold insertCell
    split
    · simp
    · simp only [List.mem_cons, ih]; tauto

theorem pairwise_insertCell {m : Memory} {a : Nat} {b : Byte}
    (hs : m.Pairwise fun c d => c.1 < d.1) (ha : ∀ c ∈ m, c.1 ≠ a) :
    (insertCell a b m).Pairwise fun c d => c.1 < d.1 := by
  induction m with
  | nil => simp [insertCell]
  | cons d m ih =>
    have hd : d.1 ≠ a := ha d (by simp)
    rw [List.pairwise_cons] at hs
    unfold insertCell
    split
    · next hlt =>
      refine List.pairwise_cons.2 ⟨fun c hc => ?_, List.pairwise_cons.2 hs⟩
      rcases List.mem_cons.1 hc with rfl | hc
      · exact hlt
      · exact Nat.lt_trans hlt (hs.1 c hc)
    · next hlt =>
      refine List.pairwise_cons.2 ⟨fun c hc => ?_, ih hs.2 fun c hc => ha c (by simp [hc])⟩
      rcases mem_insertCell.1 hc with rfl | hc
      · simp only; omega
      · exact hs.1 c hc

/-- A byte write keeps the canonical form. -/
theorem writeByte_wf {m : Memory} (h : Memory.wf m = true) (a : Nat) (b : Byte) :
    Memory.wf (writeByte m a b) = true := by
  rw [Memory.wf_iff] at h ⊢
  have he : (eraseCell a m).Pairwise fun c d => c.1 < d.1 := h.1.filter _
  unfold writeByte
  split
  · exact ⟨he, fun c hc => h.2 c (mem_eraseCell.1 hc).1⟩
  · next hb =>
    refine ⟨pairwise_insertCell he fun c hc => (mem_eraseCell.1 hc).2, fun c hc => ?_⟩
    rcases mem_insertCell.1 hc with rfl | hc
    · exact hb
    · exact h.2 c (mem_eraseCell.1 hc).1

/-- A byte write inside the address space keeps every listed address inside it. -/
theorem writeByte_inSpace {m : Memory} (h : Memory.inSpace m = true) {a : Nat} (ha : a < Config.addrLimit)
    (b : Byte) : Memory.inSpace (writeByte m a b) = true := by
  rw [Memory.inSpace_iff] at h ⊢
  intro c hc
  unfold writeByte at hc
  split at hc
  · exact h c (mem_eraseCell.1 hc).1
  · rcases mem_insertCell.1 hc with rfl | hc
    · exact ha
    · exact h c (mem_eraseCell.1 hc).1

theorem readByte_of_forall_ne {m : Memory} {a : Nat} (h : ∀ c ∈ m, c.1 ≠ a) : readByte m a = unlistedByte := by
  induction m with
  | nil => rfl
  | cons c m ih =>
    obtain ⟨k, b⟩ := c
    have hk : k ≠ a := h (k, b) (by simp)
    simp [readByte, hk, ih fun c hc => h c (by simp [hc])]

/-- Equal memories are equal data: two canonical memories that read the same everywhere are the same list. -/
theorem Memory.ext_of_wf {m n : Memory} (hm : Memory.wf m = true) (hn : Memory.wf n = true)
    (h : ∀ x, readByte m x = readByte n x) : m = n := by
  rw [Memory.wf_iff] at hm hn
  induction m generalizing n with
  | nil =>
    cases n with
    | nil => rfl
    | cons d n =>
      have := h d.1
      simp only [readByte, if_pos] at this
      exact absurd this.symm (hn.2 d (by simp))
  | cons c m ih =>
    cases n with
    | nil =>
      have := h c.1
      simp only [readByte, if_pos] at this
      exact absurd this (hm.2 c (by simp))
    | cons d n =>
      obtain ⟨hc, hm1⟩ := List.pairwise_cons.1 hm.1
      obtain ⟨hd, hn1⟩ := List.pairwise_cons.1 hn.1
      have hmt : ∀ x, x ≤ c.1 → readByte m x = unlistedByte := fun x hx =>
        readByte_of_forall_ne fun e he => by have := hc e he; omega
      have hnt : ∀ x, x ≤ d.1 → readByte n x = unlistedByte := fun x hx =>
        readByte_of_forall_ne fun e he => by have := hd e he; omega
      have hcv := hm.2 c (by simp)
      have hdv := hn.2 d (by simp)
      have h1 : c.1 = d.1 := by
        rcases Nat.lt_trichotomy c.1 d.1 with hlt | heq | hlt
        · have := h c.1
          simp only [readByte, if_pos, if_neg (Nat.ne_of_gt hlt), hnt c.1 (by omega)] at this
          exact absurd this hcv
        · exact heq
        · have := h d.1
          simp only [readByte, if_pos, if_neg (Nat.ne_of_gt hlt), hmt d.1 (by omega)] at this
          exact absurd this.symm hdv
      have h2 : c.2 = d.2 := by
        have := h c.1
        simpa [readByte, h1] using this
      have h3 : m = n := by
        refine ih ⟨hm1, fun e he => hm.2 e (by simp [he])⟩ ⟨hn1, fun e he => hn.2 e (by simp [he])⟩ fun x => ?_
        by_cases hx : x ≤ c.1
        · rw [hmt x hx, hnt x (by omega)]
        · have := h x
          simpa only [readByte, if_neg (show c.1 ≠ x by omega), if_neg (show d.1 ≠ x by omega)] using this
      rw [h3, Prod.ext h1 h2]

/-! ### Eight bytes -/

/-- A 64-bit value is its eight bytes. -/
theorem block_ext {v w : Block} (h : ∀ j < 8, byteOf v j = byteOf w j) : v = w := by
  apply BitVec.eq_of_getLsbD_eq
  intro i hi
  have := congrArg (fun b => b.getLsbD (i % 8)) (h (7 - i / 8) (by omega))
  simp only [byteOf, BitVec.getLsbD_extractLsb'] at this
  rw [show 56 - 8 * (7 - i / 8) + i % 8 = i by omega] at this
  simpa [show i % 8 < 8 by omega] using this

/-- Byte `j` of a 64-bit read is the byte at `a + j`. -/
theorem byteOf_read64 (m : Memory) (a : Nat) {j : Nat} (hj : j < 8) : byteOf (read64 m a) j = readByte m (a + j) := by
  apply BitVec.eq_of_getLsbD_eq
  intro i hi
  simp only [byteOf, read64, BitVec.getLsbD_extractLsb', BitVec.getLsbD_append, hi, decide_true, Bool.true_and]
  interval_cases j <;> simp (disch := omega) only [if_pos, if_neg] <;> congr 1 <;> omega

/-- A 64-bit read depends on its eight bytes only. -/
theorem read64_congr {m n : Memory} {a b : Nat} (h : ∀ j < 8, readByte m (a + j) = readByte n (b + j)) :
    read64 m a = read64 n b :=
  block_ext fun j hj => by rw [byteOf_read64 m a hj, byteOf_read64 n b hj, h j hj]

theorem readByte_writeBytes (v : Block) (m : Memory) (a x n : Nat) :
    readByte ((List.range n).foldl (fun m j => writeByte m (a + j) (byteOf v j)) m) x =
      if a ≤ x ∧ x < a + n then byteOf v (x - a) else readByte m x := by
  induction n with
  | zero => rw [if_neg (by omega)]; rfl
  | succ n ih =>
    rw [List.range_succ, List.foldl_append, List.foldl_cons, List.foldl_nil, readByte_writeByte, ih]
    by_cases hx : x = a + n
    · subst hx; simp
    · simp only [if_neg hx]
      by_cases h : a ≤ x ∧ x < a + n
      · rw [if_pos h, if_pos (by omega)]
      · rw [if_neg h, if_neg (by omega)]

/-- A byte read after a 64-bit write: byte `x − a` of the value inside the eight bytes, the old byte outside. -/
theorem readByte_write64 (m : Memory) (a x : Nat) (v : Block) :
    readByte (write64 m a v) x = if a ≤ x ∧ x < a + 8 then byteOf v (x - a) else readByte m x :=
  readByte_writeBytes v m a x 8

/-- A 64-bit read of what was written at the same address. -/
@[simp] theorem read64_write64_same (m : Memory) (a : Nat) (v : Block) : read64 (write64 m a v) a = v :=
  block_ext fun j hj => by
    rw [byteOf_read64 _ _ hj, readByte_write64, if_pos (by omega), Nat.add_sub_cancel_left]

/-- A 64-bit read elsewhere is unchanged by a 64-bit write. -/
theorem read64_write64_of_disjoint (m : Memory) {a b : Nat} (v : Block) (h : a + 8 ≤ b ∨ b + 8 ≤ a) :
    read64 (write64 m a v) b = read64 m b :=
  read64_congr fun j hj => by rw [readByte_write64, if_neg (by omega)]

/-- A property that every byte write keeps is kept by a 64-bit write. -/
theorem write64_induction {P : Memory → Prop} (m : Memory) (a : Nat) (v : Block) (h : P m)
    (step : ∀ m j, j < 8 → P m → P (writeByte m (a + j) (byteOf v j))) : P (write64 m a v) := by
  have : ∀ n ≤ 8, P ((List.range n).foldl (fun m j => writeByte m (a + j) (byteOf v j)) m) := by
    intro n hn
    induction n with
    | zero => simpa using h
    | succ n ih =>
      rw [List.range_succ, List.foldl_append, List.foldl_cons, List.foldl_nil]
      exact step _ n (by omega) (ih (by omega))
  exact this 8 (Nat.le_refl 8)

/-- A 64-bit write keeps the canonical form. -/
theorem write64_wf {m : Memory} (h : Memory.wf m = true) (a : Nat) (v : Block) : Memory.wf (write64 m a v) = true :=
  write64_induction (P := fun m => Memory.wf m = true) m a v h fun _ _ _ hm => writeByte_wf hm _ _

/-- A 64-bit write inside the address space keeps every listed address inside it. -/
theorem write64_inSpace {m : Memory} (h : Memory.inSpace m = true) {a : Nat} (ha : a + 8 ≤ Config.addrLimit)
    (v : Block) : Memory.inSpace (write64 m a v) = true :=
  write64_induction (P := fun m => Memory.inSpace m = true) m a v h fun _ _ _ hm => writeByte_inSpace hm (by omega) _

/-- The reset memory has the canonical form. -/
theorem reset_mem_wf : Memory.wf State.reset.mem = true := rfl

/-! ### Regions -/

/-- `covers` says that each address of the interval lies in one of the runs. -/
theorem covers_iff (rs : List Region) (lo hi : Nat) :
    covers rs lo hi = true ↔ ∀ x, lo ≤ x → x < hi → ∃ r ∈ rs, r.base ≤ x ∧ x < r.base + r.size := by
  induction rs generalizing lo hi with
  | nil =>
    simp only [covers, decide_eq_true_eq, List.not_mem_nil, false_and, exists_false]
    constructor
    · intro h x h1 h2; omega
    · intro h
      by_contra hlt
      exact h lo (Nat.le_refl _) (by omega)
  | cons r rs ih =>
    simp only [covers, Bool.or_eq_true, Bool.and_eq_true, decide_eq_true_eq, ih, List.mem_cons, exists_eq_or_imp]
    constructor
    · rintro (h | ⟨h1, h2⟩) x hx1 hx2
      · omega
      · by_cases hlo : x < r.base
        · exact .inr (h1 x hx1 (by omega))
        · by_cases hhi : x < r.base + r.size
          · exact .inl ⟨by omega, hhi⟩
          · exact .inr (h2 x (by omega) hx2)
    · intro h
      refine .inr ⟨fun x h1 h2 => ?_, fun x h1 h2 => ?_⟩
      · rcases h x h1 (by omega) with h | h
        · omega
        · exact h
      · rcases h x (by omega) h2 with h | h
        · omega
        · exact h

/-- A region is admitted when it is empty, or inside the address space with every byte mapped. -/
theorem admitted_iff (p : Params) (r : Region) :
    admitted p r = true ↔ r.size = 0 ∨ (r.base + r.size ≤ Config.addrLimit ∧
      ∀ x, r.base ≤ x → x < r.base + r.size → ∃ q ∈ p.mapped, q.base ≤ x ∧ x < q.base + q.size) := by
  simp [admitted, covers_iff]

theorem disjointRegions_iff (a b : Region) :
    disjointRegions a b = true ↔ a.base + a.size ≤ b.base ∨ b.base + b.size ≤ a.base := by
  simp [disjointRegions]

theorem overlapAllowed_iff (d s : Region) :
    overlapAllowed d s = true ↔ d.base = s.base ∨ d.base + d.size ≤ s.base ∨ s.base + s.size ≤ d.base := by
  simp [overlapAllowed, disjointRegions_iff]

/-- No check fails exactly when the first failing check is none. -/
theorem firstFault_eq_none (cs : List Check) : firstFault cs = none ↔ ∀ c ∈ cs, c.1 = false := by
  induction cs with
  | nil => simp [firstFault]
  | cons c cs ih =>
    obtain ⟨b, f⟩ := c
    cases b <;> simp [firstFault, ih]

end Sys2Proof.Machine
end

