-- ==== Sys2Proof/Laws/Chaining.lean ====
section
/-! SUPPORT. What the block loop does (spec/20_memory.md R61): the chain value, the stored blocks, and the bytes it
leaves alone. -/

namespace Sys2Proof.Machine

/-- The chain value before block `k` when every block is read from the memory `m` at the start of the command. -/
def chainFrom (f : Block → Block → Block × Block) (m : Memory) (src : Nat) (cv : Block) : Nat → Block
  | 0 => cv
  | k + 1 => (f (read64 m (src + 8 * k)) (chainFrom f m src cv k)).2

/-- The output of block `k` when every block is read from the memory `m` at the start of the command. -/
def outFrom (f : Block → Block → Block × Block) (m : Memory) (src : Nat) (cv : Block) (k : Nat) : Block :=
  (f (read64 m (src + 8 * k)) (chainFrom f m src cv k)).1

variable (f : Block → Block → Block × Block) (src dst stride : Nat) (cm : Block × Memory)

/-- The loop keeps the canonical form of memory. -/
theorem blockLoop_wf (n : Nat) (h : Memory.wf cm.2 = true) :
    Memory.wf (blockLoop f src dst stride n cm).2 = true := by
  induction n with
  | zero => exact h
  | succ n ih => exact write64_wf ih _ _

/-- The loop stays inside the address space when its destination does. -/
theorem blockLoop_inSpace (n : Nat) (h : Memory.inSpace cm.2 = true)
    (hd : ∀ k < n, dst + stride * k + 8 ≤ Config.addrLimit) :
    Memory.inSpace (blockLoop f src dst stride n cm).2 = true := by
  induction n with
  | zero => exact h
  | succ n ih => exact write64_inSpace (ih fun k hk => hd k (by omega)) (hd n (by omega)) _

/-- Bytes outside the written blocks are unchanged. -/
theorem readByte_blockLoop_outside (n : Nat) (x : Nat)
    (hx : ∀ k < n, ¬(dst + stride * k ≤ x ∧ x < dst + stride * k + 8)) :
    readByte (blockLoop f src dst stride n cm).2 x = readByte cm.2 x := by
  induction n with
  | zero => rfl
  | succ n ih =>
    show readByte (write64 _ _ _) x = _
    rw [readByte_write64, if_neg (hx n (by omega)), ih fun k hk => hx k (by omega)]

/-- TRANSFORM's loop, source and destination identical or disjoint: every block is read as it was at the start, so the
chain value and the stored blocks are those of a copy (45_commands.md R226). -/
theorem blockLoop_transform (n : Nat) (h : dst = src ∨ dst + 8 * n ≤ src ∨ src + 8 * n ≤ dst) :
    (blockLoop f src dst 8 n cm).1 = chainFrom f cm.2 src cm.1 n ∧
      ∀ k < n, read64 (blockLoop f src dst 8 n cm).2 (dst + 8 * k) = outFrom f cm.2 src cm.1 k := by
  induction n with
  | zero => exact ⟨rfl, fun k hk => absurd hk (by omega)⟩
  | succ n ih =>
    obtain ⟨h1, h2⟩ := ih (by omega)
    have hread : read64 (blockLoop f src dst 8 n cm).2 (src + 8 * n) = read64 cm.2 (src + 8 * n) :=
      read64_congr fun j hj => readByte_blockLoop_outside f src dst 8 cm n _ fun k hk => by omega
    refine ⟨?_, fun k hk => ?_⟩
    · show (f (read64 _ _) _).2 = (f (read64 _ _) _).2
      rw [hread, h1]
    · show read64 (write64 _ _ (f (read64 _ _) _).1) _ = _
      rw [hread, h1]
      by_cases hkn : k = n
      · subst hkn; rw [read64_write64_same]; rfl
      · rw [read64_write64_of_disjoint _ _ (by omega), h2 k (by omega)]

/-- MAC's loop, the destination at the source's start or apart from it: every block is read as it was at the start, and
the destination holds the last output (45_commands.md R224). -/
theorem blockLoop_mac (n : Nat) (h : 0 < n → dst = src ∨ dst + 8 ≤ src ∨ src + 8 * n ≤ dst) :
    (blockLoop f src dst 0 n cm).1 = chainFrom f cm.2 src cm.1 n ∧
      ∀ k, n = k + 1 → read64 (blockLoop f src dst 0 n cm).2 dst = outFrom f cm.2 src cm.1 k := by
  induction n with
  | zero => exact ⟨rfl, fun k hk => absurd hk (by omega)⟩
  | succ n ih =>
    obtain ⟨h1, _⟩ := ih (fun hn => by have := h (by omega); omega)
    have hread : read64 (blockLoop f src dst 0 n cm).2 (src + 8 * n) = read64 cm.2 (src + 8 * n) :=
      read64_congr fun j hj => readByte_blockLoop_outside f src dst 0 cm n _ fun k hk => by
        have := h (by omega); omega
    refine ⟨?_, fun k hk => ?_⟩
    · show (f (read64 _ _) _).2 = (f (read64 _ _) _).2
      rw [hread, h1]
    · obtain rfl : n = k := by omega
      show read64 (write64 _ (dst + 0 * n) (f (read64 _ _) _).1) dst = _
      rw [hread, h1, Nat.zero_mul, Nat.add_zero, read64_write64_same]
      rfl

end Sys2Proof.Machine
end

