-- ==== Sys2Proof/Laws/Commands.lean ====
section
/-! SUPPORT. When each command's checks pass, in the spec's own terms, and everything a command can answer: the one
lemma per command that later proofs cite. -/

namespace Sys2Proof.Machine

variable (s : State)

/-! ### Checks -/

theorem addrLimit_eq : Config.addrLimit = 2 ^ 64 := rfl

theorem regionOk_iff (p : Params) (a n : Nat) : RegionOk p a n ↔ admitted p ⟨a, n⟩ = true := by
  rw [admitted_iff, addrLimit_eq]
  unfold RegionOk IsMapped
  by_cases h : n = 0
  · simp [h]
  · simp only [h, false_or, show 0 < n by omega, true_imp_iff]

theorem alignOk_iff (p : Params) (a n : Nat) : AlignOk p a n ↔ misalignedRegion p ⟨a, n⟩ = false := by
  unfold AlignOk misalignedRegion
  cases p.alignCheck
  · simp
  · by_cases h : n = 0
    · simp [h]
    · simp [h, show 0 < n by omega]

theorem initChecks_none : firstFault (initChecks s) = none ↔
    argWritten s 0 = true ∧ AlignOk s.params (keyAddr s) (keyBits s / 8) ∧
      RegionOk s.params (keyAddr s) (keyBits s / 8) := by
  rw [firstFault_eq_none, alignOk_iff, regionOk_iff]
  simp [initChecks, operandChecks, regionChecks, keyRegion]

theorem unchainedChecks_none : firstFault (unchainedChecks s) = none ↔ UnchainedReady s := by
  rw [firstFault_eq_none]
  constructor
  · intro h
    simp [unchainedChecks, operandChecks, regionChecks, keyCheck, overlapCheck, overlapAllowed_iff] at h
    obtain ⟨h0, h1, h2, hk, ⟨ha, hb⟩, ⟨hc, hd⟩, ho⟩ := h
    exact ⟨h0, h1, h2, hk, (alignOk_iff _ _ _).2 ha, (alignOk_iff _ _ _).2 hb, (regionOk_iff _ _ _).2 hc,
      (regionOk_iff _ _ _).2 hd, ho⟩
  · intro h
    simp [unchainedChecks, operandChecks, regionChecks, keyCheck, overlapCheck, overlapAllowed_iff]
    exact ⟨h.dstWritten, h.srcWritten, h.countWritten, h.key,
      ⟨(alignOk_iff _ _ _).1 h.srcAligned, (alignOk_iff _ _ _).1 h.dstAligned⟩,
      ⟨(regionOk_iff _ _ _).1 h.srcBounds, (regionOk_iff _ _ _).1 h.dstBounds⟩, h.overlap⟩

theorem chainedChecks_none : firstFault (chainedChecks s) = none ↔ ChainedReady s := by
  rw [firstFault_eq_none]
  constructor
  · intro h
    simp [chainedChecks, operandChecks, regionChecks, keyCheck, overlapCheck, overlapAllowed_iff] at h
    obtain ⟨h0, h1, h2, h3, hk, ⟨ha, hb, he⟩, ⟨hc, hd, hf⟩, ho⟩ := h
    exact ⟨⟨h0, h1, h2, hk, (alignOk_iff _ _ _).2 ha, (alignOk_iff _ _ _).2 hb, (regionOk_iff _ _ _).2 hc,
      (regionOk_iff _ _ _).2 hd, ho⟩, h3, (alignOk_iff _ _ _).2 he, (regionOk_iff _ _ _).2 hf⟩
  · intro h
    simp [chainedChecks, operandChecks, regionChecks, keyCheck, overlapCheck, overlapAllowed_iff]
    exact ⟨h.dstWritten, h.srcWritten, h.countWritten, h.ivWritten, h.key,
      ⟨(alignOk_iff _ _ _).1 h.srcAligned, (alignOk_iff _ _ _).1 h.dstAligned, (alignOk_iff _ _ _).1 h.ivAligned⟩,
      ⟨(regionOk_iff _ _ _).1 h.srcBounds, (regionOk_iff _ _ _).1 h.dstBounds, (regionOk_iff _ _ _).1 h.ivBounds⟩,
      h.overlap⟩

theorem macChecks_none : firstFault (macChecks s) = none ↔ MacReady s := by
  rw [firstFault_eq_none]
  have hreg : macRegion s = ⟨dstAddr s, if blockCount s = 0 then 0 else 8⟩ := rfl
  have hal : misalignedRegion s.params (macRegion s) = false ↔
      (0 < blockCount s → AlignOk s.params (dstAddr s) 8) := by
    rw [hreg]
    by_cases h : blockCount s = 0
    · simp [h, misalignedRegion]
    · rw [if_neg h, ← alignOk_iff]; exact ⟨fun x _ => x, fun x => x (by omega)⟩
  have had : admitted s.params (macRegion s) = true ↔
      (0 < blockCount s → RegionOk s.params (dstAddr s) 8) := by
    rw [hreg]
    by_cases h : blockCount s = 0
    · simp [h, admitted]
    · rw [if_neg h, ← regionOk_iff]; exact ⟨fun x _ => x, fun x => x (by omega)⟩
  have hov : overlapAllowed (macRegion s) (srcRegion s) = true ↔
      (0 < blockCount s → dstAddr s = srcAddr s ∨ dstAddr s + 8 ≤ srcAddr s ∨
        srcAddr s + 8 * blockCount s ≤ dstAddr s) := by
    rw [overlapAllowed_iff, hreg]
    simp only [srcRegion]
    by_cases h : blockCount s = 0
    · simp [h]; omega
    · simp [h, show 0 < blockCount s by omega]
  constructor
  · intro h
    simp [macChecks, operandChecks, regionChecks, keyCheck, overlapCheck] at h
    obtain ⟨h0, h1, h2, hk, ⟨ha, hb⟩, ⟨hc, hd⟩, ho⟩ := h
    exact ⟨h0, h1, h2, hk, (alignOk_iff _ _ _).2 ha, hal.1 hb, (regionOk_iff _ _ _).2 hc, had.1 hd, hov.1 ho⟩
  · intro h
    simp [macChecks, operandChecks, regionChecks, keyCheck, overlapCheck]
    exact ⟨h.dstWritten, h.srcWritten, h.countWritten, h.key, ⟨(alignOk_iff _ _ _).1 h.srcAligned, hal.2 h.dstAligned⟩,
      ⟨(regionOk_iff _ _ _).1 h.srcBounds, had.2 h.dstBounds⟩, hov.2 h.overlap⟩

/-! ### Key files -/

theorem singleKeyFile_get :
    (singleKeyFile s)[0] = keySegmentSchedule s 0 ∧ (singleKeyFile s)[1] = s.rk[1] ∧
      (singleKeyFile s)[2] = s.rk[2] :=
  ⟨Vector.getElem_set_self (by decide), Vector.getElem_set_ne (by decide) (by decide) (by decide),
    Vector.getElem_set_ne (by decide) (by decide) (by decide)⟩

theorem tripleKeyFile_get :
    (tripleKeyFile s)[0] = keySegmentSchedule s 0 ∧ (tripleKeyFile s)[1] = keySegmentSchedule s 1 ∧
      (tripleKeyFile s)[2] = keySegmentSchedule s 2 := by
  unfold tripleKeyFile
  refine ⟨?_, ?_, ?_⟩
  · rw [Vector.getElem_set_ne (by decide) (by decide) (by decide),
      Vector.getElem_set_ne (by decide) (by decide) (by decide), Vector.getElem_set_self (by decide)]
  · rw [Vector.getElem_set_ne (by decide) (by decide) (by decide), Vector.getElem_set_self (by decide)]
  · rw [Vector.getElem_set_self (by decide)]

/-! ### What a command answers -/

/-- A TRANSFORM without chaining answers a next state exactly when it is ready, and then this one. -/
theorem runUnchained_next (f : Block → Block → Block × Block) (t : State) :
    runUnchained f s = .next t ↔ UnchainedReady s ∧
      t = (s.withMem (blockLoop f (srcAddr s) (dstAddr s) 8 (blockCount s) (0#64, s.mem)).2).withStatus 0#32 := by
  rw [← unchainedChecks_none, runUnchained]
  split
  · next h => simp [h]
  · next h => simp [h, eq_comm]

/-- A TRANSFORM with chaining answers a next state exactly when it is ready, and then this one. -/
theorem runChained_next (f : Block → Block → Block × Block) (t : State) :
    runChained f s = .next t ↔ ChainedReady s ∧
      t = (s.withMem (write64
        (blockLoop f (srcAddr s) (dstAddr s) 8 (blockCount s) (read64 s.mem (ivAddr s), s.mem)).2 (ivAddr s)
        (blockLoop f (srcAddr s) (dstAddr s) 8 (blockCount s) (read64 s.mem (ivAddr s), s.mem)).1)).withStatus
          0#32 := by
  rw [← chainedChecks_none, runChained]
  split
  · next h => simp [h]
  · next h => simp [h, eq_comm]

/-- MAC answers a next state exactly when it is ready, and then this one. -/
theorem execMac_next (t : State) :
    execMac s = .next t ↔ MacReady s ∧
      t = (s.withMem (blockLoop (cbcEncrypt s) (srcAddr s) (dstAddr s) 0 (blockCount s)
        (0#64, s.mem)).2).withStatus 0#32 := by
  rw [← macChecks_none, execMac]
  split
  · next h => simp [h]
  · next h => simp [h, eq_comm]

theorem keyBitsValid_iff : keyBitsValid s = true ↔ keyBits s = 64 ∨ keyBits s = 192 := by simp [keyBitsValid]

theorem initOperand_none : firstFault (operandChecks s [1]) = none ↔ argWritten s 1 = true := by
  rw [firstFault_eq_none]
  simp [operandChecks]

/-- INIT answers a next state in three cases: an invalid length, a 64-bit key and a 192-bit key. -/
theorem execInit_next (t : State) :
    execInit s = .next t ↔
      (argWritten s 1 = true ∧ ¬(keyBits s = 64 ∨ keyBits s = 192) ∧
        t = (s.withKeyValid false).withStatus s.params.errInval) ∨
      (InitReady s ∧ keyBits s = 64 ∧ t = (setContext s (singleKeyFile s) false true).withStatus 0#32) ∨
      (InitReady s ∧ keyBits s = 192 ∧ t = (setContext s (tripleKeyFile s) true true).withStatus 0#32) := by
  have hready : InitReady s ↔ argWritten s 1 = true ∧ (keyBits s = 64 ∨ keyBits s = 192) ∧
      firstFault (initChecks s) = none := by
    rw [initChecks_none]
    exact ⟨fun h => ⟨h.bitsWritten, h.length, h.addrWritten, h.aligned, h.bounds⟩,
      fun ⟨a, b, c, d, e⟩ => ⟨a, b, c, d, e⟩⟩
  rw [hready, execInit]
  split
  · next f hf =>
    have : ¬argWritten s 1 = true := fun h => by rw [(initOperand_none s).2 h] at hf; cases hf
    simp [this]
  · next hf =>
    have hw := (initOperand_none s).1 hf
    split
    · next hv =>
      rw [keyBitsValid_iff] at hv
      split
      · next f hc => simp [hc, hv]
      · next hc =>
        split
        · next h192 => simp [hc, hw, h192, eq_comm]
        · next h192 =>
          have h64 : keyBits s = 64 := by tauto
          simp [hc, hw, h64, eq_comm]
    · next hv =>
      rw [keyBitsValid_iff] at hv
      have h1 : keyBits s ≠ 64 := fun h => hv (.inl h)
      have h2 : keyBits s ≠ 192 := fun h => hv (.inr h)
      simp [hw, h1, h2, eq_comm]

/-- Everything a command can answer as a next state. -/
theorem exec_next {i : Instr} {t : State} (h : exec i s = .next t) :
    (i = .construct ∧ t = (setContext s zeroRoundKeys false false).withStatus 0#32) ∨
    (i = .init ∧ argWritten s 1 = true ∧ ¬(keyBits s = 64 ∨ keyBits s = 192) ∧
      t = (s.withKeyValid false).withStatus s.params.errInval) ∨
    (i = .init ∧ InitReady s ∧ keyBits s = 64 ∧
      t = (setContext s (singleKeyFile s) false true).withStatus 0#32) ∨
    (i = .init ∧ InitReady s ∧ keyBits s = 192 ∧
      t = (setContext s (tripleKeyFile s) true true).withStatus 0#32) ∨
    (∃ f, (i = .transformE ∧ f = ecbEncrypt s ∨ i = .transformD ∧ f = ecbDecrypt s) ∧ UnchainedReady s ∧
      t = (s.withMem (blockLoop f (srcAddr s) (dstAddr s) 8 (blockCount s) (0#64, s.mem)).2).withStatus 0#32) ∨
    (∃ f, (i = .transformECbc ∧ f = cbcEncrypt s ∨ i = .transformDCbc ∧ f = cbcDecrypt s) ∧ ChainedReady s ∧
      t = (s.withMem (write64
        (blockLoop f (srcAddr s) (dstAddr s) 8 (blockCount s) (read64 s.mem (ivAddr s), s.mem)).2 (ivAddr s)
        (blockLoop f (srcAddr s) (dstAddr s) 8 (blockCount s) (read64 s.mem (ivAddr s), s.mem)).1)).withStatus
          0#32) ∨
    (i = .mac ∧ MacReady s ∧
      t = (s.withMem (blockLoop (cbcEncrypt s) (srcAddr s) (dstAddr s) 0 (blockCount s)
        (0#64, s.mem)).2).withStatus 0#32) := by
  cases i with
  | construct =>
    refine .inl ⟨rfl, ?_⟩
    simpa [exec, execConstruct, eq_comm] using h
  | init =>
    rcases (execInit_next s t).1 h with h | h | h
    · exact .inr (.inl ⟨rfl, h⟩)
    · exact .inr (.inr (.inl ⟨rfl, h⟩))
    · exact .inr (.inr (.inr (.inl ⟨rfl, h⟩)))
  | transformE =>
    exact .inr (.inr (.inr (.inr (.inl ⟨_, .inl ⟨rfl, rfl⟩, (runUnchained_next s _ t).1 h⟩))))
  | transformD =>
    exact .inr (.inr (.inr (.inr (.inl ⟨_, .inr ⟨rfl, rfl⟩, (runUnchained_next s _ t).1 h⟩))))
  | transformECbc =>
    exact .inr (.inr (.inr (.inr (.inr (.inl ⟨_, .inl ⟨rfl, rfl⟩, (runChained_next s _ t).1 h⟩)))))
  | transformDCbc =>
    exact .inr (.inr (.inr (.inr (.inr (.inl ⟨_, .inr ⟨rfl, rfl⟩, (runChained_next s _ t).1 h⟩)))))
  | mac =>
    exact .inr (.inr (.inr (.inr (.inr (.inr ⟨rfl, (execMac_next s t).1 h⟩)))))

end Sys2Proof.Machine
end

