-- ==== Sys2Proof/Laws/PerInstr.lean ====
section
/-! SUPPORT. What holds of every instruction as syntax: its encoding (spec/30_encoding.md R80 to R83). -/

namespace Sys2Proof.Laws

/-- A command's fields are well formed, cutting its word gives its fields back, and the word decodes to it. -/
def Encoding.Statement (i : Instr) : Prop :=
  (fieldsOf i).wf = true ∧ unpackFields (encode i) = fieldsOf i ∧ decode (encode i) = .ok i

theorem Encoding.construct : Encoding.Statement .construct := ⟨rfl, rfl, rfl⟩

theorem Encoding.init : Encoding.Statement .init := ⟨rfl, rfl, rfl⟩

theorem Encoding.transformE : Encoding.Statement .transformE := ⟨rfl, rfl, rfl⟩

theorem Encoding.transformD : Encoding.Statement .transformD := ⟨rfl, rfl, rfl⟩

theorem Encoding.transformECbc : Encoding.Statement .transformECbc := ⟨rfl, rfl, rfl⟩

theorem Encoding.transformDCbc : Encoding.Statement .transformDCbc := ⟨rfl, rfl, rfl⟩

theorem Encoding.mac : Encoding.Statement .mac := ⟨rfl, rfl, rfl⟩

end Sys2Proof.Laws
end

