-- ==== Sys2Proof/Laws/Permutation.lean ====
section
/-! SUPPORT. The bits of a permuted value (spec/40_permutation.md R111, R112), and the tables' well-formedness (R110). -/

namespace Sys2Proof.Machine

theorem permute_append (n : Nat) {w : Nat} (x : BitVec w) (t : List Nat) (k : Nat) :
    permute n x (t ++ [k]) = (permute n x t <<< 1) ||| (BitVec.ofBool (x.getLsbD k)).setWidth n := by
  simp [permute]

/-- Bit `i` of a forward permutation, for a table of any length. -/
theorem getLsbD_permute_of_length (n : Nat) {w : Nat} (x : BitVec w) (t : List Nat) (i : Nat) :
    (permute n x t).getLsbD i =
      (decide (i < n) && decide (i < t.length) && x.getLsbD (t.getD (t.length - 1 - i) 0)) := by
  induction t using List.reverseRecOn generalizing i with
  | nil => simp [permute]
  | append_singleton t k ih =>
    rw [permute_append, BitVec.getLsbD_or, BitVec.getLsbD_shiftLeft, ih, BitVec.getLsbD_setWidth,
      BitVec.getLsbD_ofBool]
    by_cases hn : i < n
    · cases i with
      | zero => simp [hn]
      | succ i =>
        have : i < n := by omega
        by_cases hi : i < t.length
        · have h1 : t.length - (i + 1) = t.length - 1 - i := by omega
          have h2 : t.length - 1 - i < t.length := by omega
          simp [hn, hi, this, h1, List.getElem?_append_left, h2]
        · simp [hi]
    · simp [hn]

/-- Output bit `i` of `permute` is the input bit the table names for it (40_permutation.md R111). -/
theorem getLsbD_permute {n w : Nat} (x : BitVec w) {t : List Nat} (ht : t.length = n) (i : Nat) :
    (permute n x t).getLsbD i = (decide (i < n) && x.getLsbD (t.getD (n - 1 - i) 0)) := by
  rw [getLsbD_permute_of_length, ht]
  simp

/-- Output bit `i` of `permute_inverse`: some input bit that the table sends to `i` is set (40_permutation.md R112). -/
theorem getLsbD_permuteInverse (w : Nat) {n : Nat} (x : BitVec n) (t : List Nat) (i : Nat) :
    (permuteInverse w x t).getLsbD i = true ↔
      i < w ∧ ∃ j < t.length, t.getD (t.length - 1 - j) 0 = i ∧ x.getLsbD j = true := by
  have key : ∀ m,
      ((List.range m).foldl (fun res j =>
          res ||| ((BitVec.ofBool (x.getLsbD j)).setWidth w <<< t.getD (t.length - 1 - j) 0)) 0#w).getLsbD i = true ↔
        i < w ∧ ∃ j < m, t.getD (t.length - 1 - j) 0 = i ∧ x.getLsbD j = true := by
    intro m
    induction m with
    | zero => simp
    | succ m ih =>
      rw [List.range_succ, List.foldl_append, List.foldl_cons, List.foldl_nil, BitVec.getLsbD_or,
        BitVec.getLsbD_shiftLeft, BitVec.getLsbD_setWidth, BitVec.getLsbD_ofBool, Bool.or_eq_true, ih]
      simp only [Bool.and_eq_true, decide_eq_true_eq, Bool.not_eq_true', decide_eq_false_iff_not]
      constructor
      · rintro (⟨h, j, hj, hk⟩ | ⟨⟨h, hle⟩, _, hz, hx⟩)
        · exact ⟨h, j, by omega, hk⟩
        · exact ⟨h, m, by omega, by omega, hx⟩
      · rintro ⟨h, j, hj, hk, hx⟩
        by_cases hjm : j = m
        · subst hjm
          exact .inr ⟨⟨h, by omega⟩, by omega, by omega, hx⟩
        · exact .inl ⟨h, j, by omega, hk, hx⟩
  exact key t.length

/-- The permutation tables of the mechanism are well formed (40_permutation.md R110). -/
theorem tables_inside :
    tableInside 64 ipTable ∧ tableInside 64 pc1Table ∧ tableInside 56 pc2Table ∧ tableInside 32 pTable := by
  decide

/-- Each table has one entry per output bit (40_permutation.md R114 to R118). -/
theorem tables_length :
    ipTable.length = 64 ∧ pc1Table.length = 56 ∧ pc2Table.length = 48 ∧ pTable.length = 32 := by
  decide

end Sys2Proof.Machine
end

