-- ==== Sys2Proof/Laws/Step.lean ====
section
/-! SUPPORT. What one action of the host and one step can answer. -/

namespace Sys2Proof.Machine

theorem stopped_eq_none (s : State) : stopped s = none ↔ Unmarked s := by
  unfold stopped Unmarked
  cases s.faultMark <;> cases s.refusedMark <;> simp

/-- A step at an unmarked state runs the host's next action. -/
theorem step_cons {s : State} (h : Unmarked s) {a : HostAction} {rest : List HostAction} (hh : s.host = a :: rest) :
    step s = hostAct a (s.withHost rest) := by
  rw [step, stepHost, (stopped_eq_none s).2 h]
  simp only [hh]

/-- A step at an unmarked state whose host acts as listed runs the first of the listed actions. -/
theorem step_withHost_cons {s : State} (h : Unmarked s) (a : HostAction) (rest : List HostAction) :
    step (s.withHost (a :: rest)) = hostAct a (s.withHost rest) :=
  step_cons (s := s.withHost (a :: rest)) h rfl

/-- Everything a step can answer as a next state: idling, or the host's next action. -/
theorem step_next {s t : State} (h : step s = .next t) :
    Unmarked s ∧ ((s.host = [] ∧ t = s) ∨
      ∃ a rest, s.host = a :: rest ∧ hostAct a (s.withHost rest) = .next t) := by
  rw [step, stepHost] at h
  split at h
  · next o ho =>
    exfalso
    unfold stopped at ho
    cases hf : s.faultMark <;> cases hr : s.refusedMark <;> simp [hf, hr] at ho <;> subst ho <;> cases h
  · next ho =>
    refine ⟨(stopped_eq_none s).1 ho, ?_⟩
    split at h
    · next hh => exact .inl ⟨hh, by simpa [eq_comm] using h⟩
    · next a rest hh => exact .inr ⟨a, rest, hh, h⟩

/-- Everything an action of the host can answer as a next state. -/
theorem hostAct_next {a : HostAction} {s t : State} (h : hostAct a s = .next t) :
    (∃ r v i, a = .regWrite r .w32 v ∧ selectReg s.params r = some .cmd ∧ decode (v.setWidth 32) = .ok i ∧
      exec i s = .next t) ∨
    (∃ r n v, a = .regWrite r .w64 v ∧ selectReg s.params r = some (.arg n) ∧ t = writeArg s n v) ∨
    (∃ x, t = s.withReply (some x)) ∨
    (∃ x b, a = .memStore x b ∧ t = s.withMem (writeByte s.mem x.toNat b)) ∨
    (a = .reset ∧ t = applyReset s) := by
  unfold hostAct at h
  split at h
  · next r w v =>
    split at h
    · next reg hr =>
      split at h
      · next hw =>
        subst hw
        cases reg with
        | cmd =>
          simp only [writeReg, runCommand] at h
          split at h
          · next i hi => exact .inl ⟨r, v, i, rfl, hr, hi, h⟩
          · cases h
        | status => cases h
        | info => cases h
        | arg n => exact .inr (.inl ⟨r, n, v, rfl, hr, by simpa [writeReg, eq_comm] using h⟩)
      · cases h
    · cases h
  · next r w =>
    split at h
    · next reg hr =>
      split at h
      · cases reg with
        | cmd => cases h
        | status => exact .inr (.inr (.inl ⟨_, by simpa [readReg, eq_comm] using h⟩))
        | info => exact .inr (.inr (.inl ⟨_, by simpa [readReg, eq_comm] using h⟩))
        | arg n =>
          simp only [readReg] at h
          split at h
          · exact .inr (.inr (.inl ⟨_, by simpa [eq_comm] using h⟩))
          · cases h
      · cases h
    · cases h
  · next x b =>
    unfold hostStore at h
    split at h
    · exact .inr (.inr (.inr (.inl ⟨x, b, rfl, by simpa [eq_comm] using h⟩)))
    · cases h
  · next x =>
    unfold hostLoad at h
    split at h
    · exact .inr (.inr (.inl ⟨_, by simpa [eq_comm] using h⟩))
    · cases h
  · exact .inr (.inr (.inr (.inr ⟨rfl, by simpa [eq_comm] using h⟩)))

/-- A run whose first step goes on is the rest of the run from there. -/
theorem run_succ_of_next {s t : State} (h : step s = .next t) (k : Nat) :
    Sys2Proof.core.run (k + 1) s = Sys2Proof.core.run k t := by
  have h' : Sys2Proof.core.step s = .next t := h
  simp only [Host.Core.run, h']

/-- A fault or a refusal leaves everything but its sticky mark (60_exceptions.md R263, R266). -/
theorem recordOutcome_keeps (s : State) (o : Host.Outcome State Fault Refusal) (h : ∀ t, o ≠ .next t) :
    (recordOutcome s o).params = s.params ∧ (recordOutcome s o).rk = s.rk ∧ (recordOutcome s o).triple = s.triple ∧
      (recordOutcome s o).keyValid = s.keyValid ∧ (recordOutcome s o).status = s.status ∧
      (recordOutcome s o).args = s.args ∧ (recordOutcome s o).mem = s.mem ∧ (recordOutcome s o).host = s.host ∧
      (recordOutcome s o).reply = s.reply := by
  cases o with
  | next t => exact absurd rfl (h t)
  | fault f => exact ⟨rfl, rfl, rfl, rfl, rfl, rfl, rfl, rfl, rfl⟩
  | refused r => exact ⟨rfl, rfl, rfl, rfl, rfl, rfl, rfl, rfl, rfl⟩

end Sys2Proof.Machine
end

