-- ==== Sys2Proof/Tests/Slice0.lean ====
section
/-! SUPPORT. Tests whose expected values come from spec/95_test_vectors.md or from the spec's tables, and a witness for
every statement that has hypotheses. Each test runs at most one step. -/

namespace Sys2Proof.Tests

open Sys2Proof Sys2Proof.Machine

-- One theorem at a time: many kernel evaluations at once would each hold a thread and its stack.
set_option Elab.async false

/-! ### Well-formedness: one ill-formed term for each check -/

theorem test_reserved_bit_refused :
    CmdFields.reservedClear ⟨1#26, false, false, 3#4⟩ = false ∧ CmdFields.wf ⟨1#26, false, false, 3#4⟩ = false := by
  decide

theorem test_undefined_op_refused :
    (∀ op ∈ [0#4, 5#4, 15#4], CmdFields.opDefined ⟨0#26, false, false, op⟩ = false ∧
      CmdFields.wf ⟨0#26, false, false, op⟩ = false) := by
  decide

theorem test_flag_without_transform_refused :
    CmdFields.flagsAllowed ⟨0#26, true, false, 1#4⟩ = false ∧ CmdFields.flagsAllowed ⟨0#26, false, true, 4#4⟩ = false ∧
      CmdFields.wf ⟨0#26, false, true, 2#4⟩ = false := by
  decide

theorem test_read_of_cmd_refused : HostStmt.wf (.rd .cmd) = false := rfl

theorem test_index_outside_refused : tableInside 64 [0, 64] = false ∧ tableInside 64 [0, 63] = true := by decide

theorem test_errInval_sign_refused :
    Params.wf ⟨.fused, false, 0x7FFFFFFF#32, [], 0#64⟩ = false ∧ Params.wf Params.taken = true := by
  decide

/-- What passes the three checks is what decodes, for the seven words and the boundary words around them. -/
theorem test_wf_is_decodable :
    ([0x0#32, 0x1#32, 0x2#32, 0x3#32, 0x4#32, 0x5#32, 0xF#32, 0x11#32, 0x13#32, 0x14#32, 0x21#32, 0x22#32, 0x23#32,
        0x24#32, 0x33#32, 0x34#32, 0x43#32, 0x80000003#32].all fun w =>
      (unpackFields w).wf == ((decode w).toOption).isSome) = true := by
  decide

/-! ### Decoding: the words of 30_encoding.md R83, written field by field, and the rejections -/

theorem test_decode_construct : decode (0b00000000000000000000000000_0_0_0001#32) = .ok .construct := by decide

theorem test_decode_init : decode (0b00000000000000000000000000_0_0_0010#32) = .ok .init := by decide

theorem test_decode_transformE : decode (0b00000000000000000000000000_0_0_0011#32) = .ok .transformE := by decide

theorem test_decode_transformD : decode (0b00000000000000000000000000_0_1_0011#32) = .ok .transformD := by decide

theorem test_decode_transformECbc : decode (0b00000000000000000000000000_1_0_0011#32) = .ok .transformECbc := by decide

theorem test_decode_transformDCbc : decode (0b00000000000000000000000000_1_1_0011#32) = .ok .transformDCbc := by decide

theorem test_decode_mac : decode (0b00000000000000000000000000_0_0_0100#32) = .ok .mac := by decide

/-- V-X13, with the check of R84 each word fails. -/
theorem test_decode_rejections :
    decode 0x00000000#32 = .error .reservedOp ∧ decode 0x00000005#32 = .error .reservedOp ∧
    decode 0x00000014#32 = .error .flagsWithoutTransform ∧ decode 0x00000021#32 = .error .flagsWithoutTransform ∧
    decode 0x00000012#32 = .error .flagsWithoutTransform ∧ decode 0x00000043#32 = .error .reservedBits ∧
    decode 0x80000003#32 = .error .reservedBits := by
  decide

theorem test_table_word_lengths :
    decodeTableWord 32 0x33 = some .transformDCbc ∧ decodeTableWord 8 0x33 = some .transformDCbc ∧
    decodeTableWord 32 0x43 = none ∧ decodeTableWord 40 0x33 = none := by
  decide

/-! ### The pure functions of the mechanism -/

/-- The standard tables of 40_permutation.md, position `p` counted from 1 at the most significant bit. -/
theorem test_standard_tables :
    ipTable = [58, 50, 42, 34, 26, 18, 10, 2, 60, 52, 44, 36, 28, 20, 12, 4, 62, 54, 46, 38, 30, 22, 14, 6,
      64, 56, 48, 40, 32, 24, 16, 8, 57, 49, 41, 33, 25, 17, 9, 1, 59, 51, 43, 35, 27, 19, 11, 3,
      61, 53, 45, 37, 29, 21, 13, 5, 63, 55, 47, 39, 31, 23, 15, 7].map (64 - ·) ∧
    pc1Table = [57, 49, 41, 33, 25, 17, 9, 1, 58, 50, 42, 34, 26, 18, 10, 2, 59, 51, 43, 35, 27, 19, 11, 3, 60, 52, 44,
      36, 63, 55, 47, 39, 31, 23, 15, 7, 62, 54, 46, 38, 30, 22, 14, 6, 61, 53, 45, 37, 29, 21, 13, 5, 28, 20, 12,
      4].map (64 - ·) ∧
    pc2Table = [14, 17, 11, 24, 1, 5, 3, 28, 15, 6, 21, 10, 23, 19, 12, 4, 26, 8, 16, 7, 27, 20, 13, 2,
      41, 52, 31, 37, 47, 55, 30, 40, 51, 45, 33, 48, 44, 49, 39, 56, 34, 53, 46, 42, 50, 36, 29, 32].map (56 - ·) ∧
    pTable = [16, 7, 20, 21, 29, 12, 28, 17, 1, 15, 23, 26, 5, 18, 31, 10, 2, 8, 24, 14, 32, 27, 3, 9, 19, 13, 30, 6,
      22, 11, 4, 25].map (32 - ·) := by
  decide

/-- V-PM1 to V-PM5. -/
theorem test_initial_permutation :
    permute 64 0x0123456789abcdef#64 ipTable = 0xcc00ccfff0aaf0aa#64 ∧
    permute 64 (1#64 <<< 63) ipTable = 0x0000000001000000#64 ∧ permute 64 1#64 ipTable = 0x0000008000000000#64 ∧
    permuteInverse 64 (1#64 <<< 63) ipTable = 0x40#64 ∧
    permuteInverse 64 0x0123456789abcdef#64 ipTable = 0xff330faa00330faa#64 := by
  decide +kernel

/-- V-PM7 to V-PM13. -/
theorem test_other_permutations :
    permute 56 0xffffffffffffffff#64 pc1Table = 0xffffffffffffff#56 ∧ permute 56 0x0101010101010101#64 pc1Table = 0#56 ∧
    permute 56 0xfefefefefefefefe#64 pc1Table = 0xffffffffffffff#56 ∧
    permute 48 0xffffffffffffff#56 pc2Table = 0xffffffffffff#48 ∧ permute 32 0x80000000#32 pTable = 0x00800000#32 ∧
    permute 32 1#32 pTable = 0x800#32 ∧ permute 32 0xf0000000#32 pTable = 0x00808202#32 := by
  decide +kernel

/-- 95_test_vectors.md 2.2: each box at 00, 01, 1e, 1f, 20, 21, 3e, 3f. -/
theorem test_sbox_corners :
    ((List.finRange 8).map fun i =>
        [0x00#6, 0x01#6, 0x1e#6, 0x1f#6, 0x20#6, 0x21#6, 0x3e#6, 0x3f#6].map fun j => (sboxCompact i j).toNat) =
      [[14, 0, 7, 8, 4, 15, 0, 13], [15, 3, 10, 5, 0, 13, 15, 9], [10, 13, 8, 1, 13, 1, 7, 12],
       [7, 13, 15, 9, 10, 3, 4, 14], [2, 14, 9, 6, 4, 11, 14, 3], [12, 10, 11, 8, 9, 4, 6, 13],
       [4, 13, 1, 6, 1, 6, 2, 12], [13, 1, 7, 2, 7, 2, 8, 11]] := by
  decide +kernel

/-- 95_test_vectors.md 2.2: the fused entries at 00, 2a, 3f. -/
theorem test_fused_corners :
    ((List.finRange 8).map fun i => [0x00#6, 0x2a#6, 0x3f#6].map fun j => sboxFused i j) =
      [[0x00808200#32, 0x00008200#32, 0x00808002#32], [0x40084010#32, 0x00000010#32, 0x00084000#32],
       [0x00000104#32, 0x04010104#32, 0x00010100#32], [0x80401000#32, 0x80400040#32, 0x00401040#32],
       [0x00000080#32, 0x21040000#32, 0x20000080#32], [0x10000008#32, 0x10000000#32, 0x10002008#32],
       [0x00100000#32, 0x02000400#32, 0x00100001#32], [0x08000820#32, 0x08000020#32, 0x08020800#32]] := by
  decide +kernel

/-- The schedule of the key `0x123456789abcdef0` (V-KS1). -/
def singleSchedule : KeySet :=
  #v[0x1b02effc7072#48, 0x79aed9dbc9e5#48, 0x55fc8a42cf99#48, 0x72add6db351d#48, 0x7cec07eb53a8#48, 0x63a53e507b2f#48,
    0xec84b7f618bc#48, 0xf78a3ac13bfb#48, 0xe0dbebede781#48, 0xb1f347ba464f#48, 0x215fd3ded386#48, 0x7571f59467e9#48,
    0x97c5d1faba41#48, 0x5f43b7f2e73a#48, 0xbf918d3d3f0a#48, 0xcb3d8b0e17f5#48]

/-- V-KS1 and V-KS2. -/
theorem test_key_schedule :
    genRoundKeys 0x123456789abcdef0#64 = singleSchedule ∧ genRoundKeys 0x133457799bbcdff1#64 = singleSchedule := by
  decide +kernel

/-- V-KS4: the three segments of the triple key, first and last round key. -/
theorem test_key_segments :
    ([0x0123456789abcdef#64, 0x23456789abcdef01#64, 0x456789abcdef0123#64].map fun k =>
        ((genRoundKeys k)[0], (genRoundKeys k)[15])) =
      [(0x0b02679b49a5#48, 0xca3d03b87032#48), (0xca3d03b87032#48, 0xb691050a16b5#48),
       (0xa691250a17b1#48, 0x66ef20293e0a#48)] := by
  decide +kernel

/-- V-F1, V-F2, V-F5 to V-F8, in both forms. -/
theorem test_round_function :
    ∀ form ∈ [SboxForm.compact, .fused],
      feistel form 0#32 0#48 = 0xd8d8dbbc#32 ∧ feistel form 0xffffffff#32 0#48 = 0x38dbf9cb#32 ∧
      feistel form 0x0f550f55#32 0x1b02effc7072#48 = 0xa5504a60#32 ∧ feistel form 0x80000000#32 0#48 = 0xd0585b9e#32 ∧
      feistel form 1#32 0#48 = 0xd05ad19c#32 ∧ feistel form 0x12345678#32 0#48 = 0x5101d5dd#32 := by
  decide +kernel

/-- W1, V-BC1: round 0, and the whole encryption. -/
theorem test_block_encrypts :
    desRounds .fused singleSchedule false 1 0x33ff33000f550f55#64 = 0x0f550f5596af7960#64 ∧
    desBlock .fused 0xfedcba9876543210#64 singleSchedule false = 0x4ab65b3d4b061518#64 := by
  decide +kernel

/-- V-BC2 in the compact form. -/
theorem test_block_decrypts :
    desBlock .compact 0x4ab65b3d4b061518#64 singleSchedule true = 0xfedcba9876543210#64 := by
  decide +kernel

/-! ### States the tests run from -/

/-- The parameters of 95_test_vectors.md 2.9: one page mapped. -/
def pageParams : Params := ⟨.fused, false, 0xFFFFFFEA#32, [⟨0x1000, 0x1000⟩], 0#64⟩

/-- The same platform with the alignment check. -/
def strictParams : Params := ⟨.fused, true, 0xFFFFFFEA#32, [⟨0x1000, 0x1000⟩], 0#64⟩

/-- Writes the listed values to ARG0 and up. -/
def withOperands (s : State) (vs : List (BitVec 64)) : State :=
  (List.finRange 4).foldl (fun t n => (vs[n.val]?).elim t (writeArg t n)) s

/-- A reset core with these operands, on the one-page platform. -/
def bare (vs : List (BitVec 64)) : State := withOperands (State.reset.withParams pageParams) vs

/-- The core after a 64-bit INIT with the key `0x123456789abcdef0`, with these operands and this memory. -/
def keyed (vs : List (BitVec 64)) (m : Memory) : State :=
  withOperands ((setContext (State.reset.withParams pageParams) (zeroRoundKeys.set 0 singleSchedule) false true).withMem m)
    vs

/-- The first block of the vectors' text. -/
def textBlock : Block := 0x4e6f772069732074#64

/-- The chaining state of the vectors. -/
def chainBlock : Block := 0x1234567890abcdef#64

/-- The text block at 0x1100 and the chaining state at 0x1300. -/
def textMemory : Memory := write64 (write64 [] 0x1100 textBlock) 0x1300 chainBlock

/-- One block at 0x1100 in place, the chaining state at 0x1300. -/
def inPlaceOne : List (BitVec 64) := [0x1100#64, 0x1100#64, 1#64, 0x1300#64]

/-- Looks at the next state of an outcome. -/
def after {α : Type} (o : Host.Outcome State Fault Refusal) (f : State → α) : Option α :=
  match o with
  | .next t => some (f t)
  | .fault _ => none
  | .refused _ => none

/-- The fault of an outcome. -/
def faultOf : Host.Outcome State Fault Refusal → Option Fault
  | .next _ => none
  | .fault f => some f
  | .refused _ => none

/-- The refusal of an outcome. -/
def refusalOf : Host.Outcome State Fault Refusal → Option Refusal
  | .next _ => none
  | .fault _ => none
  | .refused r => some r

/-! ### One test of each command's result -/

/-- V-CMD1. -/
theorem test_construct :
    after (exec .construct (keyed [] [])) (fun t => (t.status, infoWord t, t.rk[0][0], t.rk[0][15])) =
      some (0#32, 0#32, 0#48, 0#48) := by
  decide +kernel

/-- V-CMD2 and V-KS1: a 64-bit key. -/
theorem test_init_single :
    after (exec .init ((bare [0x1000#64, 64#64]).withMem (write64 [] 0x1000 0x123456789abcdef0#64)))
      (fun t => (t.status, infoWord t, t.rk[0][0], t.rk[0][15], t.rk[1][0])) =
      some (0#32, 0b01#32, 0x1b02effc7072#48, 0xcb3d8b0e17f5#48, 0#48) := by
  decide +kernel

/-- V-CMD3: the lengths around the two valid ones complete with `ERR_INVAL` and clear KEY_VALID only. -/
theorem test_init_other_lengths :
    ([0#64, 56#64, 63#64, 65#64, 128#64, 191#64, 193#64, 0x100000040#64].all fun n =>
      after (exec .init (writeArg (keyed [] []) 1 n)) (fun t => (t.status, infoWord t, t.rk[0][15])) ==
        some (0xFFFFFFEA#32, 0#32, 0xcb3d8b0e17f5#48)) = true := by
  decide +kernel

/-- V-CMD4, block 0, in place. -/
theorem test_transformE :
    after (exec .transformE (keyed inPlaceOne textMemory)) (fun t => (t.status, read64 t.mem 0x1100, Memory.wf t.mem)) =
      some (0#32, 0xaaea30f286270f21#64, true) := by
  decide +kernel

/-- P1: the ciphertext of W1 decrypts in place. -/
theorem test_transformD :
    after (exec .transformD (keyed inPlaceOne (write64 [] 0x1100 0x4ab65b3d4b061518#64)))
      (fun t => (t.status, read64 t.mem 0x1100)) = some (0#32, 0xfedcba9876543210#64) := by
  decide +kernel

/-- V-CMD6, block 0: the output is the next chaining state. -/
theorem test_transformECbc :
    after (exec .transformECbc (keyed inPlaceOne textMemory)) (fun t => (read64 t.mem 0x1100, read64 t.mem 0x1300)) =
      some (0xc363c8b3565c0e19#64, 0xc363c8b3565c0e19#64) := by
  decide +kernel

/-- V-CMD7, block 0, in place: the saved ciphertext is the next chaining state. -/
theorem test_transformDCbc :
    after (exec .transformDCbc (keyed inPlaceOne (write64 (write64 [] 0x1100 0xc363c8b3565c0e19#64) 0x1300 chainBlock)))
      (fun t => (read64 t.mem 0x1100, read64 t.mem 0x1300)) = some (textBlock, 0xc363c8b3565c0e19#64) := by
  decide +kernel

/-- V-MAC2 after two blocks: the second write replaces the first. -/
theorem test_mac :
    after (exec .mac (keyed [0x1600#64, 0x1100#64, 2#64]
        (write64 (write64 [] 0x1100 textBlock) 0x1108 0x68652074696d6520#64)))
      (fun t => (t.status, read64 t.mem 0x1600, read64 t.mem 0x1100)) =
      some (0#32, 0x233d25aff3a4e90e#64, textBlock) := by
  decide +kernel

/-- V-TR1: the triple key, both directions. -/
theorem test_triple_composition :
    let s := setContext State.reset #v[genRoundKeys 0x0123456789abcdef#64, genRoundKeys 0x23456789abcdef01#64,
      genRoundKeys 0x456789abcdef0123#64] true true
    encCtx s textBlock = 0x314f8327fa7a09a8#64 ∧ decCtx s 0x314f8327fa7a09a8#64 = textBlock := by
  decide +kernel

/-! ### Faults and refusals (95_test_vectors.md 2.9) -/

/-- V-X1, V-X2, V-X16: operands before the key. -/
theorem test_operands_before_key :
    faultOf (exec .transformE (bare [])) = some .unwrittenOperand ∧
    faultOf (exec .transformE (bare [0x1100#64, 0x1100#64, 1#64])) = some .uninitialized ∧
    faultOf (exec .transformECbc (bare [0x1100#64, 0x1100#64])) = some .unwrittenOperand := by
  decide +kernel

/-- V-X3, V-X9, V-X12: a region that leaves `Mapped`, one that wraps, and the key region. -/
theorem test_out_of_bounds :
    faultOf (exec .transformE (keyed [0x1ff8#64, 0x1100#64, 2#64] [])) = some .outOfBounds ∧
    faultOf (exec .transformE (keyed [0x1000#64, 0x1100#64, 0xffffffffffffffff#64] [])) = some .outOfBounds ∧
    faultOf (exec .init (bare [0x1ffc#64, 64#64])) = some .outOfBounds := by
  decide +kernel

/-- V-X4 to V-X8: partial overlap, its two neighbours, and the chaining state over the source. -/
theorem test_overlap :
    faultOf (exec .transformE (keyed [0x1108#64, 0x1100#64, 2#64] [])) = some .partialOverlap ∧
    firstFault (unchainedChecks (keyed [0x1110#64, 0x1100#64, 2#64] [])) = none ∧
    faultOf (exec .mac (keyed [0x1108#64, 0x1100#64, 2#64] [])) = some .partialOverlap ∧
    firstFault (macChecks (keyed [0x1100#64, 0x1100#64, 2#64] [])) = none ∧
    firstFault (chainedChecks (keyed [0x1200#64, 0x1100#64, 1#64, 0x1100#64] [])) = none := by
  decide +kernel

/-- V-X10, V-X11, V-X15: what INIT reads of its operands, and the alignment check. -/
theorem test_init_operands_and_alignment :
    after (exec .init (writeArg (bare []) 1 128#64)) (fun t => t.status) = some 0xFFFFFFEA#32 ∧
    faultOf (exec .init (writeArg (bare []) 1 64#64)) = some .unwrittenOperand ∧
    faultOf (exec .transformE ((keyed [0x1101#64, 0x1200#64, 1#64] []).withParams strictParams)) = some .misaligned ∧
    firstFault (unchainedChecks (keyed [0x1101#64, 0x1200#64, 1#64] [])) = none := by
  decide +kernel

/-- V-X13 and V-X14 through the host port. -/
theorem test_port_refusals :
    (∀ a ∈ [HostAction.regRead (.num 0) .w32, .regWrite (.num 1) .w32 0#64, .regRead (.num 3) .w32,
        .regWrite (.num 3) .w64 0#64],
      refusalOf (step ((bare []).withHost [a])) = some .reservedAccess) ∧
    refusalOf (step ((bare []).withHost [.regWrite (.num 0) .w32 0x80000003#64])) = some .reservedCommand := by
  decide +kernel

/-- V-CMD2: the command written to CMD at a mapped address runs, and a read of INFO there shows the flags. -/
theorem test_mapped_port :
    let p : Params := ⟨.fused, false, 0xFFFFFFEA#32, [⟨0x1000, 0x1000⟩], 0x40#64⟩
    after (step (((keyed [] []).withParams p).withHost [.regRead (.addr 0x50#64) .w32])) (fun t => t.reply) =
      some (some (.word 1#32)) ∧
    after (step (((keyed [] []).withParams p).withHost [.regWrite (.addr 0x40#64) .w32 1#64])) (fun t => t.keyValid) =
      some false := by
  decide +kernel

/-- A word placed at reset is the next thing the core runs (V-X1 for the first). -/
theorem test_placed_word_runs :
    faultOf (step (State.reset.withFetchWord 32 0x3)) = some .unwrittenOperand ∧
    after (step (State.reset.withFetchWord 32 0x1)) (fun t => t) = some State.reset ∧
    refusalOf (step (State.reset.withFetchWord 32 0x7)) = some .reservedCommand ∧
    refusalOf (step (State.reset.withFetchWord 64 0x1)) = some .reservedAccess := by
  decide +kernel

/-- P1's INIT and its expansion (30_encoding.md R89). -/
theorem test_pseudo_expansion :
    programActions [.init 0x1000#64 64#64] =
      [.regWrite (.num 4) .w64 0x1000#64, .regWrite (.num 5) .w64 64#64, .regWrite (.num 0) .w32 0x2#64] := by
  decide

/-! ### States that meet the hypotheses of the statements -/

theorem eq_fault_of_faultOf {o : Host.Outcome State Fault Refusal} {f : Fault} (h : faultOf o = some f) :
    o = .fault f := by
  cases o with
  | next t => cases h
  | fault g => cases h; rfl
  | refused r => cases h

theorem eq_refused_of_refusalOf {o : Host.Outcome State Fault Refusal} {r : Refusal} (h : refusalOf o = some r) :
    o = .refused r := by
  cases o with
  | next t => cases h
  | fault g => cases h
  | refused q => cases h; rfl

/-- One block in place, every operand written, a valid key: every command completes here. INIT reads its length from
ARG1, which is 0x1100, so it completes with `ERR_INVAL`. -/
def inPlace : State := keyed inPlaceOne textMemory

/-- Two blocks from 0x1100 to the block right after them. -/
def copied : State := keyed [0x1110#64, 0x1100#64, 2#64, 0x1300#64] textMemory

/-- No block, and regions that no one-block command could have. -/
def noBlock : State := keyed [5#64, 7#64, 0#64, 0x1ff8#64] []

theorem inPlace_unchained : UnchainedReady inPlace := (unchainedChecks_none _).1 (by decide +kernel)

theorem inPlace_chained : ChainedReady inPlace := (chainedChecks_none _).1 (by decide +kernel)

theorem inPlace_mac : MacReady inPlace := (macChecks_none _).1 (by decide +kernel)

theorem copied_unchained : UnchainedReady copied := (unchainedChecks_none _).1 (by decide +kernel)

theorem copied_chained : ChainedReady copied := (chainedChecks_none _).1 (by decide +kernel)

theorem noBlock_chained : ChainedReady noBlock := (chainedChecks_none _).1 (by decide +kernel)

theorem noBlock_mac : MacReady noBlock := (macChecks_none _).1 (by decide +kernel)

theorem unmarked_bare : Unmarked (bare []) := ⟨rfl, rfl⟩

/-! ### Witnesses: the command words and the host port -/

theorem witness_DecodeAcceptsOnlyTableWords : ∃ w i, decode w = .ok i := ⟨0x13#32, .transformD, by decide⟩

/-- The words next to the table's own, and a word with a high bit. -/
theorem witness_ReservedWordsAreRefused :
    Unmarked (bare []) ∧ ∀ v ∈ [0x0#64, 0x5#64, 0x14#64, 0x21#64, 0x43#64, 0x80000003#64], ∀ i : Instr,
      v.setWidth 32 ≠ encode i := by
  refine ⟨unmarked_bare, fun v hv i => ?_⟩
  simp only [List.mem_cons, List.not_mem_nil, or_false] at hv
  rcases hv with rfl | rfl | rfl | rfl | rfl | rfl <;> cases i <;> decide

theorem witness_StepRunsDecodedCommand :
    let s := inPlace.withHost [.regWrite (.num 0) .w32 0x33#64]
    Unmarked s ∧ s.host = [.regWrite (.num 0) .w32 0x33#64] ∧ decode ((0x33#64).setWidth 32) = .ok .transformDCbc :=
  ⟨⟨rfl, rfl⟩, rfl, by decide⟩

theorem witness_PlacedWordRunsNext : Unmarked State.reset := ⟨rfl, rfl⟩

/-- Each clause at its boundary register numbers and at a wrong width beside the right one. -/
theorem witness_ReservedAccessesAreRefused :
    Unmarked (bare []) ∧
      (∀ a ∈ ([(3, .w32), (8, .w64), (0, .w32), (0, .w8), (2, .w64), (4, .w32), (7, .w16)] : List (Nat × AccessWidth)),
        refusalOf (step ((bare []).withHost [.regRead (.num a.1) a.2])) = some .reservedAccess) ∧
      ∀ a ∈ ([(3, .w64), (8, .w32), (1, .w32), (2, .w32), (0, .w64), (4, .w8), (7, .w32)] : List (Nat × AccessWidth)),
        refusalOf (step ((bare []).withHost [.regWrite (.num a.1) a.2 1#64])) = some .reservedAccess :=
  ⟨unmarked_bare, by decide +kernel, by decide +kernel⟩

theorem witness_RegisterReadsReturnValues :
    Unmarked (bare [7#64]) ∧ argWritten (bare [7#64]) 0 = true ∧ argWritten (bare [7#64]) 3 = false :=
  ⟨⟨rfl, rfl⟩, by decide, by decide⟩

theorem witness_ArgWriteStoresAndMarks : Unmarked (bare [7#64]) ∧ (0 : Fin 4) ≠ 3 := ⟨⟨rfl, rfl⟩, by decide⟩

/-- The last register that still has an address below 2^64. -/
theorem witness_MappedRegistersSitEightApart :
    (0xffffffffffffffc0#64).toNat + 8 * 7 < 2 ^ 64 ∧ (0#64).toNat + 8 * (2 ^ 61 - 1) < 2 ^ 64 := by
  decide +kernel

theorem witness_CoreIdlesWithoutTheHost : Unmarked State.reset ∧ State.reset.host = [] := ⟨⟨rfl, rfl⟩, rfl⟩

/-- The first and the last mapped byte, and the bytes beside them. -/
theorem witness_HostBytesAreSequential :
    Unmarked (bare []) ∧ IsMapped pageParams (0x1000#64).toNat ∧ IsMapped pageParams (0x1fff#64).toNat ∧
      ¬IsMapped pageParams (0x0fff#64).toNat ∧ ¬IsMapped pageParams (0x2000#64).toNat := by
  refine ⟨unmarked_bare, ?_⟩
  simp [IsMapped, pageParams]

theorem witness_MarksAreSticky :
    ((bare []).withFaultMark (some .misaligned)).faultMark = some .misaligned ∧
    (((bare []).withRefusedMark (some .reservedAccess)).faultMark = none ∧
      ((bare []).withRefusedMark (some .reservedAccess)).refusedMark = some .reservedAccess) ∧
    step (bare []) = .next (bare []) ∧
    step ((bare []).withHost [.regWrite (.num 0) .w32 3#64]) = .fault .unwrittenOperand ∧
    step ((bare []).withHost [.regRead (.num 0) .w32]) = .refused .reservedAccess :=
  ⟨rfl, ⟨rfl, rfl⟩, rfl, eq_fault_of_faultOf (by decide +kernel), eq_refused_of_refusalOf (by decide +kernel)⟩

theorem witness_PseudoInstructionsExpand : Unmarked State.reset := ⟨rfl, rfl⟩

theorem witness_ResetActionResetsTheCore : Unmarked inPlace := ⟨rfl, rfl⟩

/-! ### Witnesses: the pure functions -/

/-- The empty table, a swap and IP are bijections. -/
theorem witness_PermuteInverseIsInverse :
    ∀ t ∈ [[], [0, 1], ipTable], t.Nodup ∧ ∀ k ∈ t, k < t.length := by
  decide

/-- Only the parity bits differ. -/
theorem witness_KeyScheduleIgnoresParity :
    (∀ i < 64, i % 8 ≠ 0 → (0#64).getLsbD i = (0x0101010101010101#64).getLsbD i) ∧
      (0#64 : Block) ≠ 0x0101010101010101#64 := by
  decide +kernel

/-- The first and the last round, with V-KS1's halves. -/
theorem witness_KeyHalvesRotateByTheTable :
    0 < 16 ∧ halvesAfter 0x123456789abcdef0#64 0 = ⟨0xe19955f#28, 0xaaccf1e#28⟩ ∧
      15 < 16 ∧ halvesAfter 0x123456789abcdef0#64 15 = ⟨0xf0ccaaf#28, 0x556678f#28⟩ := by
  decide +kernel

/-- The four kinds of constant halves, with V-KS3's round keys. -/
theorem witness_KeyScheduleCloses :
    selectHalves 0#64 = ⟨0#28, 0#28⟩ ∧ selectHalves 0xffffffffffffffff#64 = ⟨BitVec.allOnes 28, BitVec.allOnes 28⟩ ∧
    selectHalves 0x1f1f1f1f0e0e0e0e#64 = ⟨0#28, BitVec.allOnes 28⟩ ∧
    selectHalves 0xe0e0e0e0f1f1f1f1#64 = ⟨BitVec.allOnes 28, 0#28⟩ ∧
    (genRoundKeys 0x1f1f1f1f0e0e0e0e#64)[0] = 0x000000ffffff#48 ∧
    (genRoundKeys 0xe0e0e0e0f1f1f1f1#64)[15] = 0xffffff000000#48 := by
  decide +kernel

theorem witness_EqualKeysForgetDirection : ∀ r q : Fin 16, KeySet.zero[r] = KeySet.zero[q] := by decide +kernel

theorem witness_ContextDirectionsInvert :
    let s := setContext State.reset (Vector.replicate 3 singleSchedule) true true
    s.triple = true ∧ s.rk[0] = s.rk[1] ∧ s.rk[1] = s.rk[2] :=
  ⟨rfl, rfl, rfl⟩

/-! ### Witnesses: when commands complete -/

theorem witness_InitRejectsOtherLengths :
    let s := writeArg inPlace 1 65#64
    argWritten s 1 = true ∧ keyBits s ≠ 64 ∧ keyBits s ≠ 192 ∧
      let u := inPlace.withKeyValid false
      u.keyValid = false ∧ ∀ n : Fin 4, argWritten u n = true := by
  decide +kernel

theorem initReady_of_checks {s : State} (h1 : argWritten s 1 = true) (hn : keyBits s = 64 ∨ keyBits s = 192)
    (h : firstFault (initChecks s) = none) : InitReady s :=
  let ⟨h0, ha, hb⟩ := (initChecks_none s).1 h
  ⟨h1, hn, h0, ha, hb⟩

/-- The key at the last eight mapped bytes. -/
theorem witness_InitSingleDerivesKeySetZero :
    InitReady (bare [0x1ff8#64, 64#64]) ∧ keyBits (bare [0x1ff8#64, 64#64]) = 64 :=
  ⟨initReady_of_checks (by decide +kernel) (by decide +kernel) (by decide +kernel), by decide +kernel⟩

/-- The key at the last 24 mapped bytes. -/
theorem witness_InitTripleDerivesThreeKeySets :
    InitReady (bare [0x1fe8#64, 192#64]) ∧ keyBits (bare [0x1fe8#64, 192#64]) = 192 :=
  ⟨initReady_of_checks (by decide +kernel) (by decide +kernel) (by decide +kernel), by decide +kernel⟩

/-- Two blocks copied next to their source; a byte of the destination's end and the byte after it. -/
theorem witness_TransformEncryptsEachBlock :
    UnchainedReady inPlace ∧ UnchainedReady copied ∧ 1 < blockCount copied ∧
      ¬InRegion 0x1120 (dstAddr copied) (8 * blockCount copied) :=
  ⟨inPlace_unchained, copied_unchained, by decide +kernel, by unfold InRegion; decide +kernel⟩

theorem witness_TransformDecryptsEachBlock : UnchainedReady copied ∧ 1 < blockCount copied :=
  ⟨copied_unchained, by decide +kernel⟩

/-- Two blocks with the chaining state elsewhere, and none with the chaining state at the end of the page. -/
theorem witness_ChainedEncryptionChains :
    ChainedReady copied ∧ 1 < blockCount copied ∧ ¬InRegion (dstAddr copied + 8 * 1 + 7) (ivAddr copied) 8 ∧
      ChainedReady noBlock :=
  ⟨copied_chained, by decide +kernel, by unfold InRegion; decide +kernel, noBlock_chained⟩

theorem witness_ChainedDecryptionChains : ChainedReady copied ∧ ChainedReady inPlace ∧ ChainedReady noBlock :=
  ⟨copied_chained, inPlace_chained, noBlock_chained⟩

theorem witness_MacKeepsTheLastChainValue :
    MacReady inPlace ∧ 0 < blockCount inPlace ∧ MacReady noBlock ∧ ¬0 < blockCount noBlock :=
  ⟨inPlace_mac, by decide +kernel, noBlock_mac, by decide +kernel⟩

theorem witness_ZeroBlocksChangeNoByte :
    blockCount noBlock = 0 ∧ argWritten noBlock 0 = true ∧ argWritten noBlock 1 = true ∧
      argWritten noBlock 2 = true ∧ noBlock.keyValid = true ∧ Instr.mac ∈ [Instr.transformE, .transformD, .mac] ∧
      Instr.transformDCbc ∈ [Instr.transformECbc, .transformDCbc] ∧ argWritten noBlock 3 = true ∧
      AlignOk noBlock.params (ivAddr noBlock) 8 ∧ RegionOk noBlock.params (ivAddr noBlock) 8 := by
  simp only [alignOk_iff, regionOk_iff]
  decide +kernel

/-- Every command completes at `inPlace`. -/
theorem inPlace_completes (i : Instr) : ∃ t, exec i inPlace = .next t := by
  cases i with
  | construct => exact ⟨_, rfl⟩
  | init => exact ⟨_, (execInit_next inPlace _).2 (.inl ⟨by decide +kernel, by decide +kernel, rfl⟩)⟩
  | transformE => exact ⟨_, (runUnchained_next _ _ _).2 ⟨inPlace_unchained, rfl⟩⟩
  | transformD => exact ⟨_, (runUnchained_next _ _ _).2 ⟨inPlace_unchained, rfl⟩⟩
  | transformECbc => exact ⟨_, (runChained_next _ _ _).2 ⟨inPlace_chained, rfl⟩⟩
  | transformDCbc => exact ⟨_, (runChained_next _ _ _).2 ⟨inPlace_chained, rfl⟩⟩
  | mac => exact ⟨_, (execMac_next _ _).2 ⟨inPlace_mac, rfl⟩⟩

/-- An operand other than the source address leaves the source blocks as they were. -/
theorem srcBlock_writeArg (s : State) (n : Fin 4) (v : BitVec 64) (h : n.val ≠ 1) (k : Nat) :
    srcBlock (writeArg s n v) k = srcBlock s k := by
  have harg : argValue (writeArg s n v) 1 = argValue s 1 := congrArg ArgReg.value (Vector.getElem_set_ne n.isLt _ h)
  unfold srcBlock srcAddr
  rw [harg]
  rfl

/-- The source blocks of an in-place command's next state are its destination blocks. -/
theorem srcBlock_inPlace (s : State) (m : Memory) (h : dstAddr s = srcAddr s) (k : Nat) :
    srcBlock ((s.withMem m).withStatus 0#32) k = read64 m (dstAddr s + 8 * k) := by
  rw [h]
  rfl

/-- One block in place, and the same block copied. -/
theorem witness_InPlaceEqualsCopied :
    let u := writeArg inPlace 0 0x1400#64
    dstAddr inPlace = srcAddr inPlace ∧ SameContext inPlace u ∧ blockCount inPlace = blockCount u ∧
      (∀ k < blockCount inPlace, srcBlock inPlace k = srcBlock u k) ∧ ivBlock inPlace = ivBlock u ∧
      Apart (ivAddr inPlace) 8 (dstAddr inPlace) (8 * blockCount inPlace) ∧
      Apart (ivAddr u) 8 (dstAddr u) (8 * blockCount u) ∧
      (∃ t, exec .transformECbc inPlace = .next t) ∧ ∃ v, exec .transformECbc u = .next v :=
  ⟨by decide +kernel, ⟨rfl, rfl, rfl, rfl⟩, by decide +kernel,
    fun k _ => (srcBlock_writeArg inPlace 0 _ (by decide) k).symm, by decide +kernel, .inr (by decide +kernel),
    .inl (by decide +kernel), inPlace_completes .transformECbc, _,
    (runChained_next (writeArg inPlace 0 0x1400#64) _ _).2
      ⟨(chainedChecks_none (writeArg inPlace 0 0x1400#64)).1 (by decide +kernel), rfl⟩⟩

/-! ### Witnesses: the laws of the commands -/

/-- Being ready does not depend on what memory or STATUS hold. -/
theorem unchained_stays {s : State} (h : UnchainedReady s) (m : Memory) :
    UnchainedReady ((s.withMem m).withStatus 0#32) :=
  (unchainedChecks_none _).1 ((unchainedChecks_none s).2 h)

theorem chained_stays {s : State} (h : ChainedReady s) (m n : Memory) :
    ChainedReady (((s.withMem m).withStatus 0#32).withMem n) :=
  (chainedChecks_none _).1 ((chainedChecks_none s).2 h)

/-- In place, the state after the encryption is one the decryption starts from. -/
theorem roundTrip_inPlace {s : State} (h : UnchainedReady s) (hd : dstAddr s = srcAddr s) :
    ∃ t, exec .transformE s = .next t ∧ UnchainedReady t ∧ SameContext s t ∧ blockCount t = blockCount s ∧
      ∀ k < blockCount s, srcBlock t k = read64 t.mem (dstAddr s + 8 * k) :=
  ⟨_, (runUnchained_next s _ _).2 ⟨h, rfl⟩, unchained_stays h _, ⟨rfl, rfl, rfl, rfl⟩, rfl,
    fun k _ => srcBlock_inPlace s _ hd k⟩

theorem witness_UnchainedRoundTrip :
    ∃ t, exec .transformE inPlace = .next t ∧ UnchainedReady t ∧ SameContext inPlace t ∧
      blockCount t = blockCount inPlace ∧
      ∀ k < blockCount inPlace, srcBlock t k = read64 t.mem (dstAddr inPlace + 8 * k) :=
  roundTrip_inPlace inPlace_unchained (by decide +kernel)

/-- The state from which the decryption starts: the encryption's next state, with the old chaining state stored
again. -/
def restored (s t : State) : State := t.withMem (write64 t.mem (ivAddr s) (ivBlock s))

theorem chainedRoundTrip_inPlace {s : State} (h : ChainedReady s) (hd : dstAddr s = srcAddr s)
    (ha : Apart (ivAddr s) 8 (dstAddr s) (8 * blockCount s)) :
    ∃ t, exec .transformECbc s = .next t ∧ ChainedReady (restored s t) ∧ SameContext s (restored s t) ∧
      blockCount (restored s t) = blockCount s ∧ ivBlock (restored s t) = ivBlock s ∧
      Apart (ivAddr (restored s t)) 8 (dstAddr (restored s t)) (8 * blockCount (restored s t)) ∧
      ∀ k < blockCount s, srcBlock (restored s t) k = read64 t.mem (dstAddr s + 8 * k) := by
  refine ⟨_, (runChained_next s _ _).2 ⟨h, rfl⟩, chained_stays h _ _, ⟨rfl, rfl, rfl, rfl⟩, rfl,
    read64_write64_same _ _ _, ha, fun k hk => ?_⟩
  rw [← srcBlock_inPlace s _ hd k]
  refine read64_write64_of_disjoint _ _ ?_
  rw [hd] at ha
  show ivAddr s + 8 ≤ srcAddr s + 8 * k ∨ srcAddr s + 8 * k + 8 ≤ ivAddr s
  unfold Apart at ha
  omega

theorem witness_ChainedRoundTrip :
    Apart (ivAddr inPlace) 8 (dstAddr inPlace) (8 * blockCount inPlace) ∧ blockCount inPlace = 0 + 1 ∧
    ∃ t, exec .transformECbc inPlace = .next t ∧ ChainedReady (restored inPlace t) ∧
      SameContext inPlace (restored inPlace t) ∧ blockCount (restored inPlace t) = blockCount inPlace ∧
      ivBlock (restored inPlace t) = ivBlock inPlace ∧
      Apart (ivAddr (restored inPlace t)) 8 (dstAddr (restored inPlace t)) (8 * blockCount (restored inPlace t)) ∧
      ∀ k < blockCount inPlace, srcBlock (restored inPlace t) k = read64 t.mem (dstAddr inPlace + 8 * k) :=
  have ha : Apart (ivAddr inPlace) 8 (dstAddr inPlace) (8 * blockCount inPlace) := .inr (by decide +kernel)
  ⟨ha, by decide +kernel, chainedRoundTrip_inPlace inPlace_chained (by decide +kernel) ha⟩

/-- Two blocks as one and one. -/
theorem witness_ChainingResumes :
    (∃ t, exec .transformECbc copied = .next t) ∧ (∃ t, exec .transformDCbc copied = .next t) ∧
      blockCount copied = 1 + 1 ∧ Apart (ivAddr copied) 8 (srcAddr copied) (8 * blockCount copied) :=
  ⟨⟨_, (runChained_next copied _ _).2 ⟨copied_chained, rfl⟩⟩, ⟨_, (runChained_next copied _ _).2 ⟨copied_chained, rfl⟩⟩,
    by decide +kernel, .inr (by decide +kernel)⟩

theorem witness_MacIsTheLastChainedBlock :
    let u := writeArg inPlace 3 0x1400#64
    (∃ t, exec .mac inPlace = .next t) ∧ ChainedReady u ∧ SameContext inPlace u ∧ blockCount inPlace = 0 + 1 ∧
      blockCount u = 0 + 1 ∧ (∀ j ≤ 0, srcBlock inPlace j = srcBlock u j) ∧ ivBlock u = 0#64 ∧
      Apart (ivAddr u) 8 (dstAddr u + 8 * 0) 8 :=
  ⟨inPlace_completes .mac, (chainedChecks_none (writeArg inPlace 3 0x1400#64)).1 (by decide +kernel),
    ⟨rfl, rfl, rfl, rfl⟩, by decide +kernel, by decide +kernel,
    fun j _ => (srcBlock_writeArg inPlace 3 _ (by decide) j).symm, by decide +kernel, .inr (by decide +kernel)⟩

/-! ### Witnesses: each check failing first, at the edge of its range -/

/-- No length; no key address; a key that starts four bytes off; keys that end one byte past the page. -/
theorem witness_InitFaultsInOrder :
    let a := writeArg (bare []) 1 64#64
    let b := (bare [0x1004#64, 192#64]).withParams strictParams
    let c := bare [0x1ff1#64, 64#64]
    let d := bare [0x1ff9#64, 64#64]
    argWritten (bare []) 1 = false ∧ (argWritten a 1 = true ∧ keyBits a = 64 ∧ argWritten a 0 = false) ∧
    (argWritten b 1 = true ∧ keyBits b = 192 ∧ argWritten b 0 = true ∧
      ¬AlignOk b.params (keyAddr b) (keyBits b / 8)) ∧
    RegionOk c.params (keyAddr c) (keyBits c / 8) ∧
    (argWritten d 1 = true ∧ keyBits d = 64 ∧ argWritten d 0 = true ∧ AlignOk d.params (keyAddr d) (keyBits d / 8) ∧
      ¬RegionOk d.params (keyAddr d) (keyBits d / 8)) := by
  simp only [alignOk_iff, regionOk_iff]
  decide +kernel

/-- The operands of TRANSFORM without chaining, and of MAC, are written. -/
abbrev Written3 (s : State) : Prop := argWritten s 0 = true ∧ argWritten s 1 = true ∧ argWritten s 2 = true

/-- The operands of TRANSFORM with chaining are written. -/
abbrev Written4 (s : State) : Prop :=
  argWritten s 0 = true ∧ argWritten s 1 = true ∧ argWritten s 2 = true ∧ argWritten s 3 = true

/-- Source and destination pass the alignment check. -/
abbrev Aligned2 (s : State) : Prop :=
  AlignOk s.params (srcAddr s) (8 * blockCount s) ∧ AlignOk s.params (dstAddr s) (8 * blockCount s)

/-- Source and destination are admitted. -/
abbrev Inside2 (s : State) : Prop :=
  RegionOk s.params (srcAddr s) (8 * blockCount s) ∧ RegionOk s.params (dstAddr s) (8 * blockCount s)

/-- The overlap rule of TRANSFORM. -/
abbrev NoOverlap (s : State) : Prop :=
  dstAddr s = srcAddr s ∨ Apart (dstAddr s) (8 * blockCount s) (srcAddr s) (8 * blockCount s)

/-- No count; no key; only the destination off; only the source past the page; one block of overlap. -/
theorem witness_UnchainedFaultsInOrder :
    let a := bare [0x1100#64, 0x1100#64]
    let b := bare [0x1100#64, 0x1100#64, 1#64]
    let c := (keyed [0x1101#64, 0x1200#64, 1#64] []).withParams strictParams
    let d := keyed [0x1100#64, 0x1ff9#64, 1#64] []
    let e := keyed [0x1108#64, 0x1100#64, 2#64] []
    ¬Written3 a ∧ (Written3 b ∧ b.keyValid = false) ∧ (Written3 c ∧ c.keyValid = true ∧ ¬Aligned2 c) ∧
    (Written3 d ∧ d.keyValid = true ∧ Aligned2 d ∧ ¬Inside2 d) ∧
    (Written3 e ∧ e.keyValid = true ∧ Aligned2 e ∧ Inside2 e ∧ ¬NoOverlap e) := by
  simp only [Aligned2, Inside2, NoOverlap, alignOk_iff, regionOk_iff, Apart]
  decide +kernel

/-- No chaining-state address; no key; with no block, only the chaining state off, and past the page; one block of
overlap. -/
theorem witness_ChainedFaultsInOrder :
    let a := bare [0x1100#64, 0x1100#64, 1#64]
    let b := bare [0x1100#64, 0x1100#64, 1#64, 0x1300#64]
    let c := (keyed [0x1100#64, 0x1100#64, 0#64, 0x1304#64] []).withParams strictParams
    let d := keyed [0x1100#64, 0x1100#64, 0#64, 0x1ff9#64] []
    let e := keyed [0x1100#64, 0x1108#64, 2#64, 0x1100#64] []
    ¬Written4 a ∧ (Written4 b ∧ b.keyValid = false) ∧
    (Written4 c ∧ c.keyValid = true ∧ Aligned2 c ∧ ¬AlignOk c.params (ivAddr c) 8) ∧
    (Written4 d ∧ d.keyValid = true ∧ Aligned2 d ∧ AlignOk d.params (ivAddr d) 8 ∧ Inside2 d ∧
      ¬RegionOk d.params (ivAddr d) 8) ∧
    (Written4 e ∧ e.keyValid = true ∧ Aligned2 e ∧ AlignOk e.params (ivAddr e) 8 ∧ Inside2 e ∧
      RegionOk e.params (ivAddr e) 8 ∧ ¬NoOverlap e) := by
  simp only [Aligned2, Inside2, NoOverlap, alignOk_iff, regionOk_iff, Apart]
  decide +kernel

/-- As for TRANSFORM; the destination is eight bytes, whatever the count. -/
theorem witness_MacFaultsInOrder :
    let a := bare [0x1100#64, 0x1100#64]
    let b := bare [0x1100#64, 0x1100#64, 1#64]
    let c := (keyed [0x1101#64, 0x1200#64, 1#64] []).withParams strictParams
    let d := keyed [0x1ff9#64, 0x1100#64, 2#64] []
    let e := keyed [0x1108#64, 0x1100#64, 2#64] []
    ¬Written3 a ∧ (Written3 b ∧ b.keyValid = false) ∧
    (Written3 c ∧ c.keyValid = true ∧ 0 < blockCount c ∧ ¬AlignOk c.params (dstAddr c) 8) ∧
    (Written3 d ∧ d.keyValid = true ∧ AlignOk d.params (srcAddr d) (8 * blockCount d) ∧
      AlignOk d.params (dstAddr d) 8 ∧ 0 < blockCount d ∧ ¬RegionOk d.params (dstAddr d) 8) ∧
    (Written3 e ∧ e.keyValid = true ∧ AlignOk e.params (srcAddr e) (8 * blockCount e) ∧
      AlignOk e.params (dstAddr e) 8 ∧ RegionOk e.params (srcAddr e) (8 * blockCount e) ∧
      RegionOk e.params (dstAddr e) 8 ∧
      ¬(blockCount e = 0 ∨ dstAddr e = srcAddr e ∨ Apart (dstAddr e) 8 (srcAddr e) (8 * blockCount e))) := by
  simp only [alignOk_iff, regionOk_iff, Apart]
  decide +kernel

/-! ### Witnesses: frames and whole-machine statements -/

theorem witness_CommandsLeaveOtherFieldsAlone : ∀ i, ∃ t, exec i inPlace = .next t := inPlace_completes

/-- The bytes just outside the block and the chaining state. -/
theorem witness_CommandsStoreOnlyToTheirRegions :
    (∀ i, ∃ t, exec i inPlace = .next t) ∧ ∀ x ∈ [0x10ff, 0x1108, 0x12ff, 0x1308],
      ¬InRegion x (dstAddr inPlace) (8 * blockCount inPlace) ∧ ¬InRegion x (ivAddr inPlace) 8 :=
  ⟨inPlace_completes, by unfold InRegion; decide +kernel⟩

/-- An INIT with an invalid length, and the other commands. -/
theorem witness_StatusAfterACommand :
    (∀ i, ∃ t, exec i inPlace = .next t) ∧ keyBits inPlace ≠ 64 ∧ keyBits inPlace ≠ 192 :=
  ⟨inPlace_completes, by decide +kernel, by decide +kernel⟩

/-- A TRANSFORM from a state that meets the invariant. -/
theorem witness_EveryStepKeepsInv :
    ∃ s t, Inv s ∧ step s = .next t ∧ s.host = [.regWrite (.num 0) .w32 0x23#64] := by
  obtain ⟨t, ht⟩ := inPlace_completes .transformECbc
  refine ⟨inPlace.withHost [.regWrite (.num 0) .w32 0x23#64], t, ?_, ?_, rfl⟩
  · exact ⟨by decide +kernel, by decide +kernel, by decide +kernel, .inl rfl,
      fun _ => ⟨⟨_, test_key_schedule.1.symm⟩, fun h => by cases h⟩, ⟨rfl, rfl⟩⟩
  · exact (step_withHost_cons (s := inPlace) ⟨rfl, rfl⟩ _ []).trans ht

/-- CONSTRUCT, an INIT with an invalid length, and reset each clear a valid key. -/
theorem witness_OnlyKeyCommandsChangeTheContext :
    ∀ a ∈ [HostAction.regWrite (.num 0) .w32 1#64, .regWrite (.num 0) .w32 2#64, .reset],
      after (step (inPlace.withHost [a])) (fun t => t.keyValid) = some false ∧ inPlace.keyValid = true := by
  decide +kernel

/-- Another key set 1 behind TRIPLE = 0, and another key set 0 behind KEY_VALID = 0. -/
theorem witness_UnusedKeySetsAreUnobservable :
    HiddenKeysDiffer inPlace (inPlace.withRk (inPlace.rk.set 1 singleSchedule)) ∧
    HiddenKeysDiffer State.reset (State.reset.withRk (State.reset.rk.set 0 singleSchedule)) ∧
    inPlace.rk[1] ≠ singleSchedule :=
  ⟨⟨rfl, fun _ => ⟨rfl, fun h => by cases h⟩⟩, ⟨rfl, fun h => by cases h⟩, by decide +kernel⟩

/-- The same state with the other substitution ROM. -/
theorem witness_SboxFormIsUnobservable :
    FormsDiffer inPlace (inPlace.withParams ⟨.compact, false, 0xFFFFFFEA#32, [⟨0x1000, 0x1000⟩], 0#64⟩) := rfl

end Sys2Proof.Tests
end

section
/-! PROOFS. Facts about the decoder, the host port and one step that the statements of spec/10_state.md share. -/

namespace Sys2Proof.Machine

/-! ### Command words -/

/-- An encoded command decodes to itself (30_encoding.md R83). -/
theorem decode_encode : ∀ i : Instr, decode (encode i) = .ok i
  | .construct => Laws.Encoding.construct.2.2
  | .init => Laws.Encoding.init.2.2
  | .transformE => Laws.Encoding.transformE.2.2
  | .transformD => Laws.Encoding.transformD.2.2
  | .transformECbc => Laws.Encoding.transformECbc.2.2
  | .transformDCbc => Laws.Encoding.transformDCbc.2.2
  | .mac => Laws.Encoding.mac.2.2

/-- Laying out the fields cut from a word gives the word back (30_encoding.md R80). -/
theorem packFields_unpackFields (w : CmdWord) : packFields (unpackFields w) = w := by
  apply BitVec.eq_of_getLsbD_eq
  intro i hi
  simp only [packFields, unpackFields, BitVec.getLsbD_append, BitVec.getLsbD_extractLsb', BitVec.getLsbD_ofBool]
  interval_cases i <;> simp

/-- Fields that name a command are that command's own fields (30_encoding.md R84). -/
theorem eq_fieldsOf_of_decodeFields {f : CmdFields} {i : Instr} (h : decodeFields f = .ok i) : f = fieldsOf i := by
  obtain ⟨reserved, chained, decrypt, op⟩ := f
  have op_eq (k : Nat) (hk : op.toNat = k) : op = BitVec.ofNat 4 k := by
    rw [← hk, BitVec.ofNat_toNat, BitVec.setWidth_eq]
  unfold decodeFields at h
  split at h
  · dsimp only at h
    split at h
    -- Only the seven rows that name a command are left.
    all_goals cases h
    all_goals simp_all [fieldsOf]
  · cases h

/-- A word that decodes to a command is the word of that command (30_encoding.md R83, R84). -/
theorem eq_encode_of_decode {w : CmdWord} {i : Instr} (h : decode w = .ok i) : w = encode i := by
  rw [encode, ← eq_fieldsOf_of_decodeFields h, packFields_unpackFields]

/-! ### Which register an access names -/

@[simp] theorem selectReg_num (p : Params) (n : Nat) : selectReg p (.num n) = regAt n := rfl

theorem regAt_arg (k : Fin 4) : regAt (4 + k.val) = some (.arg k) := by
  fin_cases k <;> rfl

/-- The register map (10_state.md R28): every number that names a register, with its register. -/
theorem regAt_eq_some {n : Nat} {reg : HostReg} (h : regAt n = some reg) :
    (n = 0 ∧ reg = .cmd) ∨ (n = 1 ∧ reg = .status) ∨ (n = 2 ∧ reg = .info) ∨
      (4 ≤ n ∧ n ≤ 7 ∧ ∃ k, reg = .arg k) := by
  unfold regAt at h
  split at h <;> cases h <;> simp

theorem regAt_reserved {n : Nat} (hn : n = 3 ∨ 7 < n) (reg : HostReg) : regAt n ≠ some reg := fun h => by
  have := regAt_eq_some h
  omega

/-- CMD, STATUS and INFO are 32 bits wide (10_state.md R28). -/
theorem regWidth_of_le_two {n : Nat} (hn : n ≤ 2) {reg : HostReg} (h : regAt n = some reg) : regWidth reg = .w32 := by
  rcases regAt_eq_some h with ⟨-, rfl⟩ | ⟨-, rfl⟩ | ⟨-, rfl⟩ | ⟨h4, -⟩
  · rfl
  · rfl
  · rfl
  · omega

/-- The ARGs are 64 bits wide (10_state.md R28). -/
theorem regWidth_of_four_le {n : Nat} (hn : 4 ≤ n) {reg : HostReg} (h : regAt n = some reg) :
    regWidth reg = .w64 := by
  rcases regAt_eq_some h with ⟨h0, -⟩ | ⟨h1, -⟩ | ⟨h2, -⟩ | ⟨-, -, k, rfl⟩
  · omega
  · omega
  · omega
  · rfl

/-- `REG_BASE + 8n`, where that is an address, is register `n` (10_state.md R28). -/
theorem regNumber_mapped (p : Params) (n : Nat) (h : p.regBase.toNat + 8 * n < 2 ^ 64) :
    regNumber p (.addr (p.regBase + BitVec.ofNat 64 (8 * n))) = some n := by
  have ha : (p.regBase + BitVec.ofNat 64 (8 * n)).toNat = p.regBase.toNat + 8 * n := by
    rw [BitVec.toNat_add, BitVec.toNat_ofNat, Nat.add_mod_mod, Nat.mod_eq_of_lt h]
  simp [regNumber, ha]

/-! ### One access of the host -/

section Access
variable {s : State} {r : RegSel} {reg : HostReg}

theorem hostAct_regWrite_ownWidth (h : selectReg s.params r = some reg) (v : BitVec 64) :
    hostAct (.regWrite r (regWidth reg) v) s = writeReg reg v s := by
  simp [hostAct, h]

theorem hostAct_regRead_ownWidth (h : selectReg s.params r = some reg) :
    hostAct (.regRead r (regWidth reg)) s = readReg reg s := by
  simp [hostAct, h]

/-- A write is refused unless it names CMD or an ARG at its own width (10_state.md R33). -/
theorem hostAct_regWrite_refused {w : AccessWidth} (v : BitVec 64)
    (h : ∀ reg, selectReg s.params r = some reg → w = regWidth reg → reg = .status ∨ reg = .info) :
    hostAct (.regWrite r w v) s = .refused .reservedAccess := by
  cases hr : selectReg s.params r with
  | none => simp [hostAct, hr]
  | some reg =>
    by_cases hw : w = regWidth reg
    · subst hw
      rw [hostAct_regWrite_ownWidth hr]
      rcases h reg hr rfl with rfl | rfl <;> rfl
    · simp [hostAct, hr, hw]

/-- A read is refused unless it names STATUS, INFO or an ARG at its own width (10_state.md R33). -/
theorem hostAct_regRead_refused {w : AccessWidth}
    (h : ∀ reg, selectReg s.params r = some reg → w = regWidth reg → reg = .cmd) :
    hostAct (.regRead r w) s = .refused .reservedAccess := by
  cases hr : selectReg s.params r with
  | none => simp [hostAct, hr]
  | some reg =>
    by_cases hw : w = regWidth reg
    · subst hw
      rw [hostAct_regRead_ownWidth hr, h reg hr rfl, readReg]
    · simp [hostAct, hr, hw]

/-- A CMD write of a word that decodes runs the command (10_state.md R29). -/
theorem hostAct_cmd (h : selectReg s.params r = some .cmd) {v : BitVec 64} {i : Instr}
    (hi : decode (v.setWidth 32) = .ok i) : hostAct (.regWrite r .w32 v) s = exec i s :=
  (hostAct_regWrite_ownWidth h v).trans (by rw [writeReg, runCommand, hi])

end Access

/-! ### The operand registers -/

@[simp] theorem argValue_writeArg_self (s : State) (n : Fin 4) (v : BitVec 64) : argValue (writeArg s n v) n = v := by
  simp [argValue, writeArg]

@[simp] theorem argWritten_writeArg_self (s : State) (n : Fin 4) (v : BitVec 64) :
    argWritten (writeArg s n v) n = true := by
  simp [argWritten, writeArg]

theorem args_writeArg_of_ne (s : State) {m n : Fin 4} (h : m ≠ n) (v : BitVec 64) :
    (writeArg s n v).args[m] = s.args[m] :=
  Vector.getElem_set_ne n.isLt m.isLt fun e => h (Fin.ext e.symm)

/-! ### INFO -/

/-- The bits of INFO (10_state.md R32). -/
theorem getLsbD_infoWord (s : State) (i : Nat) :
    (infoWord s).getLsbD i = if i = 0 then s.keyValid else if i = 1 then s.triple else false := by
  have hparts : (infoWord s).getLsbD i =
      (0#30 ++ BitVec.ofBool s.triple ++ BitVec.ofBool s.keyValid : BitVec (30 + 1 + 1)).getLsbD i := rfl
  rw [hparts, BitVec.getLsbD_append, BitVec.getLsbD_append]
  match i with
  | 0 => simp
  | 1 => simp
  | i + 2 => simp

/-! ### A stopped machine -/

theorem step_of_faultMark {s : State} {f : Fault} (h : s.faultMark = some f) : step s = .fault f := by
  simp [step, stepHost, stopped, h]

theorem step_of_refusedMark {s : State} {r : Refusal} (hf : s.faultMark = none) (hr : s.refusedMark = some r) :
    step s = .refused r := by
  simp [step, stepHost, stopped, hf, hr]

theorem step_idle {s : State} (h : Unmarked s) (hh : s.host = []) : step s = .next s := by
  rw [step, stepHost, (stopped_eq_none s).2 h]
  simp only [hh]

end Sys2Proof.Machine
end

section
/-! PROOFS. What each family of commands writes, and that every step keeps the machine's invariant. -/

namespace Sys2Proof.Machine

/-! ### Which fields a command writes -/

/-- A command writes STATUS and one thing more: CONSTRUCT and INIT the context, the others memory. -/
theorem exec_next_frame {s t : State} {i : Instr} (h : exec i s = .next t) :
    ((i = .construct ∨ i = .init) ∧ ∃ rk tr v st, t = (setContext s rk tr v).withStatus st) ∨
      (i ≠ .construct ∧ i ≠ .init ∧ ∃ m st, t = (s.withMem m).withStatus st) := by
  rcases exec_next s h with ⟨rfl, rfl⟩ | ⟨rfl, -, -, rfl⟩ | ⟨rfl, -, -, rfl⟩ | ⟨rfl, -, -, rfl⟩ |
    ⟨_, ⟨rfl, -⟩ | ⟨rfl, -⟩, -, rfl⟩ | ⟨_, ⟨rfl, -⟩ | ⟨rfl, -⟩, -, rfl⟩ | ⟨rfl, -, rfl⟩
  · exact .inl ⟨.inl rfl, _, _, _, _, rfl⟩
  · exact .inl ⟨.inr rfl, s.rk, s.triple, false, _, rfl⟩
  · exact .inl ⟨.inr rfl, _, _, _, _, rfl⟩
  · exact .inl ⟨.inr rfl, _, _, _, _, rfl⟩
  all_goals exact .inr ⟨nofun, nofun, _, _, rfl⟩

/-- Settles O54: a command writes STATUS and either the context or memory. -/
theorem commandsLeaveOtherFieldsAlone : Obligations.CommandsLeaveOtherFieldsAlone := by
  intro s t i h
  rcases exec_next_frame h with ⟨hi, rk, tr, v, st, rfl⟩ | ⟨hc, hn, m, st, rfl⟩
  · exact ⟨rfl, rfl, rfl, rfl, rfl, rfl, fun _ => rfl, fun hc hn => absurd hi (not_or.2 ⟨hc, hn⟩)⟩
  · exact ⟨rfl, rfl, rfl, rfl, rfl, rfl, fun hi => absurd hi (not_or.2 ⟨hc, hn⟩), fun _ _ => ⟨rfl, rfl, rfl⟩⟩

/-! ### No step sets a mark and goes on -/

theorem exec_unmarked {s t : State} {i : Instr} (h : exec i s = .next t) (hs : Unmarked s) : Unmarked t := by
  obtain ⟨-, -, hf, hr, -⟩ := commandsLeaveOtherFieldsAlone s t i h
  exact ⟨hf.trans hs.1, hr.trans hs.2⟩

theorem hostAct_unmarked {a : HostAction} {s t : State} (h : hostAct a s = .next t) (hs : Unmarked s) :
    Unmarked t := by
  rcases hostAct_next h with ⟨_, _, _, _, _, _, hx⟩ | ⟨_, _, _, _, _, rfl⟩ | ⟨_, rfl⟩ | ⟨_, _, _, rfl⟩ | ⟨_, rfl⟩
  · exact exec_unmarked hx hs
  · exact hs
  · exact hs
  · exact hs
  · exact ⟨rfl, rfl⟩

theorem step_unmarked {s t : State} (h : step s = .next t) : Unmarked s ∧ Unmarked t := by
  obtain ⟨hs, ⟨-, rfl⟩ | ⟨a, rest, -, ha⟩⟩ := step_next h
  · exact ⟨hs, hs⟩
  · exact ⟨hs, hostAct_unmarked ha hs⟩

/-- Settles O14: a recorded mark is what the next step repeats, the fault first. -/
theorem marksAreSticky : Obligations.MarksAreSticky := by
  intro s
  refine ⟨fun f => step_of_faultMark, fun r => step_of_refusedMark, fun t => step_unmarked, fun f h => ?_,
    fun r h => ?_⟩
  · rw [h]
    exact ⟨rfl, step_of_faultMark rfl⟩
  · have hf : s.faultMark = none := by
      cases hm : s.faultMark with
      | none => rfl
      | some f => rw [step_of_faultMark hm] at h; cases h
    rw [h]
    exact ⟨rfl, step_of_refusedMark hf rfl⟩

/-! ### The context -/

/-- Of the host's actions only reset and the CMD writes of CONSTRUCT and INIT reach the context (10_state.md R21 to
R23). -/
theorem hostAct_context {a : HostAction} {s t : State} (h : hostAct a s = .next t) :
    (t.rk = s.rk ∧ t.triple = s.triple ∧ t.keyValid = s.keyValid) ∨ a = .reset ∨
      ∃ r v, a = .regWrite r .w32 v ∧ selectReg s.params r = some .cmd ∧
        (v.setWidth 32 = encode .construct ∨ v.setWidth 32 = encode .init) := by
  rcases hostAct_next h with ⟨r, v, i, rfl, hr, hi, hx⟩ | ⟨_, _, _, _, _, rfl⟩ | ⟨_, rfl⟩ | ⟨_, _, _, rfl⟩ | ⟨rfl, -⟩
  · have hword := eq_encode_of_decode hi
    rcases exec_next_frame hx with ⟨rfl | rfl, -⟩ | ⟨-, -, m, st, rfl⟩
    · exact .inr (.inr ⟨r, v, rfl, hr, .inl hword⟩)
    · exact .inr (.inr ⟨r, v, rfl, hr, .inr hword⟩)
    · exact .inl ⟨rfl, rfl, rfl⟩
  · exact .inl ⟨rfl, rfl, rfl⟩
  · exact .inl ⟨rfl, rfl, rfl⟩
  · exact .inl ⟨rfl, rfl, rfl⟩
  · exact .inr (.inl rfl)

/-- Settles O57: an idle step keeps the context, and so does every action of the host but the key commands and
reset. -/
theorem onlyKeyCommandsChangeTheContext : Obligations.OnlyKeyCommandsChangeTheContext := by
  intro s t h hne
  obtain ⟨-, ⟨-, rfl⟩ | ⟨a, rest, hh, ha⟩⟩ := step_next h
  · simp at hne
  · refine ⟨rest, ?_⟩
    rcases hostAct_context ha with hkeep | rfl | ⟨r, v, rfl, hr, hword⟩
    · simp [hkeep] at hne
    · exact .inl hh
    · exact .inr ⟨r, v, hh, hr, hword⟩

/-! ### The invariant -/

section Invariant
variable {s : State}

/-- New memory in canonical form inside the address space, with STATUS 0, keeps the invariant. -/
theorem Inv.withMem_success (h : Inv s) {m : Memory} (hw : Memory.wf m = true) (hm : Memory.inSpace m = true) :
    Inv ((s.withMem m).withStatus 0#32) :=
  ⟨hw, hm, h.params, .inl rfl, h.schedules, h.unmarked⟩

/-- A new context with STATUS 0 keeps the invariant when a valid one holds schedules. -/
theorem Inv.setContext_success (h : Inv s) {rk : Vector KeySet 3} {tr v : Bool}
    (hk : v = true → HoldsSchedules (setContext s rk tr v)) : Inv ((setContext s rk tr v).withStatus 0#32) :=
  ⟨h.memForm, h.memSpace, h.params, .inl rfl, hk, h.unmarked⟩

/-- A turned-away INIT keeps the invariant. -/
theorem Inv.invalidLength (h : Inv s) : Inv ((s.withKeyValid false).withStatus s.params.errInval) :=
  ⟨h.memForm, h.memSpace, h.params, .inr rfl, nofun, h.unmarked⟩

theorem singleKeyFile_holdsSchedules (s : State) : HoldsSchedules (setContext s (singleKeyFile s) false true) :=
  ⟨⟨_, (singleKeyFile_get s).1⟩, nofun⟩

theorem tripleKeyFile_holdsSchedules (s : State) : HoldsSchedules (setContext s (tripleKeyFile s) true true) := by
  obtain ⟨h0, h1, h2⟩ := tripleKeyFile_get s
  exact ⟨⟨_, h0⟩, fun _ => ⟨⟨_, h1⟩, ⟨_, h2⟩⟩⟩

/-- TRANSFORM's destination blocks lie inside the address space. -/
theorem UnchainedReady.block_inSpace (h : UnchainedReady s) :
    ∀ k < blockCount s, dstAddr s + 8 * k + 8 ≤ Config.addrLimit := by
  intro k hk
  have := (h.dstBounds (by omega)).1
  rw [addrLimit_eq]
  omega

/-- MAC's destination lies inside the address space once a block is stored there. -/
theorem MacReady.block_inSpace (h : MacReady s) :
    ∀ k < blockCount s, dstAddr s + 0 * k + 8 ≤ Config.addrLimit := by
  intro k hk
  have := (h.dstBounds (by omega) (by omega)).1
  rw [addrLimit_eq]
  omega

theorem ChainedReady.iv_inSpace (h : ChainedReady s) : ivAddr s + 8 ≤ Config.addrLimit :=
  (h.ivBounds (by omega)).1

/-- A command that goes on keeps the invariant. -/
theorem Inv.exec (h : Inv s) {i : Instr} {t : State} (hx : exec i s = .next t) : Inv t := by
  rcases exec_next s hx with ⟨-, rfl⟩ | ⟨-, -, -, rfl⟩ | ⟨-, -, -, rfl⟩ | ⟨-, -, -, rfl⟩ | ⟨_, -, hr, rfl⟩ |
    ⟨_, -, hr, rfl⟩ | ⟨-, hr, rfl⟩
  · exact h.setContext_success nofun
  · exact h.invalidLength
  · exact h.setContext_success fun _ => singleKeyFile_holdsSchedules s
  · exact h.setContext_success fun _ => tripleKeyFile_holdsSchedules s
  · exact h.withMem_success (blockLoop_wf _ _ _ _ _ _ h.memForm)
      (blockLoop_inSpace _ _ _ _ _ _ h.memSpace hr.block_inSpace)
  · exact h.withMem_success (write64_wf (blockLoop_wf _ _ _ _ _ _ h.memForm) _ _)
      (write64_inSpace (blockLoop_inSpace _ _ _ _ _ _ h.memSpace hr.block_inSpace) hr.iv_inSpace _)
  · exact h.withMem_success (blockLoop_wf _ _ _ _ _ _ h.memForm)
      (blockLoop_inSpace _ _ _ _ _ _ h.memSpace hr.block_inSpace)

/-- Reset keeps the invariant: only memory and the parameters outlive it (70_reset_and_hazards.md R290). -/
theorem Inv.applyReset (h : Inv s) : Inv (applyReset s) :=
  ⟨h.memForm, h.memSpace, h.params, .inl rfl, nofun, rfl, rfl⟩

theorem Inv.withHost (h : Inv s) (x : List HostAction) : Inv (s.withHost x) :=
  ⟨h.memForm, h.memSpace, h.params, h.status, h.schedules, h.unmarked⟩

theorem Inv.withReply (h : Inv s) (x : Option Reply) : Inv (s.withReply x) :=
  ⟨h.memForm, h.memSpace, h.params, h.status, h.schedules, h.unmarked⟩

theorem Inv.writeArg (h : Inv s) (n : Fin 4) (v : BitVec 64) : Inv (writeArg s n v) :=
  ⟨h.memForm, h.memSpace, h.params, h.status, h.schedules, h.unmarked⟩

/-- A byte the host stores keeps the invariant: its address is a 64-bit value. -/
theorem Inv.storeByte (h : Inv s) (a : BitVec 64) (b : Byte) : Inv (s.withMem (writeByte s.mem a.toNat b)) :=
  ⟨writeByte_wf h.memForm _ _, writeByte_inSpace h.memSpace a.isLt _, h.params, h.status, h.schedules, h.unmarked⟩

/-- An action of the host that goes on keeps the invariant. -/
theorem Inv.hostAct (h : Inv s) {a : HostAction} {t : State} (ha : hostAct a s = .next t) : Inv t := by
  rcases hostAct_next ha with ⟨_, _, _, -, -, -, hx⟩ | ⟨_, n, v, -, -, rfl⟩ | ⟨x, rfl⟩ | ⟨x, b, -, rfl⟩ | ⟨-, rfl⟩
  · exact h.exec hx
  · exact h.writeArg n v
  · exact h.withReply _
  · exact h.storeByte x b
  · exact h.applyReset

end Invariant

/-- Settles O19: an idle step changes nothing, and every action of the host keeps the invariant. -/
theorem everyStepKeepsInv : Obligations.EveryStepKeepsInv := by
  intro s t h hst
  obtain ⟨-, ⟨-, rfl⟩ | ⟨a, rest, -, ha⟩⟩ := step_next hst
  · exact h
  · exact (h.withHost rest).hostAct ha

/-- Settles O18. -/
theorem resetMeetsInv : Obligations.ResetMeetsInv :=
  ⟨reset_mem_wf, rfl, rfl, .inl rfl, nofun, rfl, rfl⟩

end Sys2Proof.Machine
end

section
/-! PROOFS. The host interface (spec/10_state.md R28 to R33) and reset (R37). -/

namespace Sys2Proof.Machine

/-- Settles O7: no register sits at 3 or above 7, and a register's number fixes its width and what it answers. -/
theorem reservedAccessesAreRefused : Obligations.ReservedAccessesAreRefused := by
  intro s rest n w v hs
  rw [step_withHost_cons hs, step_withHost_cons hs]
  have reads (h : ∀ reg, regAt n = some reg → w = regWidth reg → reg = .cmd) :
      hostAct (.regRead (.num n) w) (s.withHost rest) = .refused .reservedAccess := hostAct_regRead_refused h
  have writes (h : ∀ reg, regAt n = some reg → w = regWidth reg → reg = .status ∨ reg = .info) :
      hostAct (.regWrite (.num n) w v) (s.withHost rest) = .refused .reservedAccess := hostAct_regWrite_refused v h
  have wrongWidth (hw : ∀ reg, regAt n = some reg → w ≠ regWidth reg) :
      hostAct (.regRead (.num n) w) (s.withHost rest) = .refused .reservedAccess ∧
        hostAct (.regWrite (.num n) w v) (s.withHost rest) = .refused .reservedAccess :=
    ⟨reads fun reg h he => absurd he (hw reg h), writes fun reg h he => absurd he (hw reg h)⟩
  refine ⟨fun hn => wrongWidth fun reg h => absurd h (regAt_reserved hn reg), ?_, ?_,
    fun hn hw => wrongWidth fun reg h => regWidth_of_le_two hn h ▸ hw,
    fun hn _ hw => wrongWidth fun reg h => regWidth_of_four_le hn h ▸ hw⟩
  · rintro rfl
    exact reads fun reg h _ => (Option.some.inj h).symm
  · rintro (rfl | rfl)
    · exact writes fun reg h _ => .inl (Option.some.inj h).symm
    · exact writes fun reg h _ => .inr (Option.some.inj h).symm

/-- Settles O9: the write stores at index `n` of the ARG vector and touches no other field. -/
theorem argWriteStoresAndMarks : Obligations.ArgWriteStoresAndMarks := by
  intro s rest n v hs
  refine ⟨writeArg (s.withHost rest) n v, ?_, argValue_writeArg_self _ n v, argWritten_writeArg_self _ n v,
    fun m hm => ?_, rfl⟩
  · rw [step_withHost_cons hs]
    exact hostAct_regWrite_ownWidth (r := .num (4 + n.val)) (regAt_arg n) v
  · have hkeep := args_writeArg_of_ne (s.withHost rest) hm v
    exact ⟨congrArg ArgReg.value hkeep, congrArg ArgReg.written hkeep⟩

/-- Settles O11: a mapped address and a number that give one register number select one register. -/
theorem mappedRegistersSitEightApart : Obligations.MappedRegistersSitEightApart := by
  intro p n h
  rw [selectReg, regNumber_mapped p n h]
  rfl

/-- Settles O5: CMD is the register selected, at its own width. -/
theorem stepRunsDecodedCommand : Obligations.StepRunsDecodedCommand := by
  intro s rest v i hs hh hi
  rw [step_cons hs hh]
  exact hostAct_cmd rfl hi

/-- Settles O6: the placed word survives the widening to the 64 bits of a host write. -/
theorem placedWordRunsNext : Obligations.PlacedWordRunsNext := by
  intro s i hs
  have hword : (BitVec.ofNat 64 (encode i).toNat).setWidth 32 = encode i := by bv_omega
  refine ⟨?_, ?_⟩
  · have hlt := (encode i).isLt
    rw [decodeTableWord, if_pos ⟨Nat.le_refl 32, hlt⟩, BitVec.ofNat_toNat, BitVec.setWidth_eq, decode_encode]
  · refine (step_withHost_cons hs _ s.host).trans (hostAct_cmd rfl ?_)
    rw [hword, decode_encode]

/-- Settles O8: a read at the register's own width is `readReg`, which answers by the register and the written mark. -/
theorem registerReadsReturnValues : Obligations.RegisterReadsReturnValues := by
  intro s rest n hs
  have readArg := hostAct_regRead_ownWidth (s := s.withHost rest) (r := .num (4 + n.val)) (regAt_arg n)
  simp only [step_withHost_cons hs]
  exact ⟨rfl, rfl, fun hw => readArg.trans (if_pos hw), fun hw => readArg.trans (if_neg (ne_true_of_eq_false hw))⟩

/-- Settles O10. -/
theorem infoShowsTheFlags : Obligations.InfoShowsTheFlags := by
  intro s
  refine ⟨getLsbD_infoWord s 0, getLsbD_infoWord s 1, fun i hi => ?_⟩
  rw [getLsbD_infoWord, if_neg (by omega), if_neg (by omega)]

/-- Settles O12. -/
theorem coreIdlesWithoutTheHost : Obligations.CoreIdlesWithoutTheHost :=
  fun _ hs hh => step_idle hs hh

/-- Settles O16: the round-key file and the ARGs are replicated constants. -/
theorem resetValues : Obligations.ResetValues := by
  refine ⟨fun j r => ?_, rfl, rfl, rfl, rfl, fun n => ?_, rfl, rfl⟩
  · simp [State.reset, zeroRoundKeys, KeySet.zero]
  · simp [argWritten, State.reset, ArgReg.unwritten]

end Sys2Proof.Machine
end

section
/-! PROOFS. Key sets the context does not use cannot be observed (spec/10_state.md R24, R25). Two states that differ at
most there are `s` and `s.withRk k`, so each operation is compared with itself on those two. -/

namespace Sys2Proof.Machine

theorem HiddenKeysDiffer.refl (s : State) : HiddenKeysDiffer s s := ⟨rfl, fun _ => ⟨rfl, fun _ => ⟨rfl, rfl⟩⟩⟩

theorem OutcomeRel.refl {R : State → State → Prop} (h : ∀ s, R s s) :
    ∀ o : Host.Outcome State Fault Refusal, OutcomeRel R o o
  | .next s => h s
  | .fault _ => rfl
  | .refused _ => rfl

/-- Two conditionals agree when their conditions do and their branches agree. -/
theorem OutcomeRel.ite {R : State → State → Prop} {c d : Prop} [Decidable c] [Decidable d] (hcd : c ↔ d)
    {a b a' b' : Host.Outcome State Fault Refusal} (ht : OutcomeRel R a a') (he : OutcomeRel R b b') :
    OutcomeRel R (if c then a else b) (if d then a' else b') := by
  by_cases hc : c
  · rwa [if_pos hc, if_pos (hcd.1 hc)]
  · rwa [if_neg hc, if_neg (mt hcd.2 hc)]

section Hidden
variable {s : State} {k : Vector KeySet 3} (h : HiddenKeysDiffer s (s.withRk k))
include h

/-! ### The ciphers of a valid context -/

theorem encCtx_withRk (hv : s.keyValid = true) : encCtx (s.withRk k) = encCtx s := by
  obtain ⟨h0, h12⟩ := h.2 hv
  funext x
  cases ht : s.triple with
  | false => simp_all [encCtx]
  | true => obtain ⟨h1, h2⟩ := h12 ht; simp_all [encCtx]

theorem decCtx_withRk (hv : s.keyValid = true) : decCtx (s.withRk k) = decCtx s := by
  obtain ⟨h0, h12⟩ := h.2 hv
  funext x
  cases ht : s.triple with
  | false => simp_all [decCtx]
  | true => obtain ⟨h1, h2⟩ := h12 ht; simp_all [decCtx]

theorem ecbEncrypt_withRk (hv : s.keyValid = true) : ecbEncrypt (s.withRk k) = ecbEncrypt s := by
  funext x cv
  rw [ecbEncrypt, encCtx_withRk h hv, ecbEncrypt]

theorem ecbDecrypt_withRk (hv : s.keyValid = true) : ecbDecrypt (s.withRk k) = ecbDecrypt s := by
  funext x cv
  rw [ecbDecrypt, decCtx_withRk h hv, ecbDecrypt]

theorem cbcEncrypt_withRk (hv : s.keyValid = true) : cbcEncrypt (s.withRk k) = cbcEncrypt s := by
  funext x cv
  rw [cbcEncrypt, encCtx_withRk h hv, cbcEncrypt]

theorem cbcDecrypt_withRk (hv : s.keyValid = true) : cbcDecrypt (s.withRk k) = cbcDecrypt s := by
  funext x cv
  rw [cbcDecrypt, decCtx_withRk h hv, cbcDecrypt]

/-! ### Commands: the checks read no key, and what passes them runs with a valid one -/

theorem runUnchained_withRk {f g : Block → Block → Block × Block} (hfg : s.keyValid = true → g = f) :
    OutcomeRel HiddenKeysDiffer (runUnchained f s) (runUnchained g (s.withRk k)) := by
  have hchecks : unchainedChecks (s.withRk k) = unchainedChecks s := rfl
  rw [runUnchained, runUnchained, hchecks]
  cases hc : firstFault (unchainedChecks s) with
  | some r => exact rfl
  | none =>
    obtain rfl := hfg ((unchainedChecks_none s).1 hc).key
    exact ⟨rfl, h.2⟩

theorem runChained_withRk {f g : Block → Block → Block × Block} (hfg : s.keyValid = true → g = f) :
    OutcomeRel HiddenKeysDiffer (runChained f s) (runChained g (s.withRk k)) := by
  have hchecks : chainedChecks (s.withRk k) = chainedChecks s := rfl
  rw [runChained, runChained, hchecks]
  cases hc : firstFault (chainedChecks s) with
  | some r => exact rfl
  | none =>
    obtain rfl := hfg ((chainedChecks_none s).1 hc).key
    exact ⟨rfl, h.2⟩

theorem execMac_withRk : OutcomeRel HiddenKeysDiffer (execMac s) (execMac (s.withRk k)) := by
  have hchecks : macChecks (s.withRk k) = macChecks s := rfl
  rw [execMac, execMac, hchecks]
  cases hc : firstFault (macChecks s) with
  | some r => exact rfl
  | none =>
    rw [cbcEncrypt_withRk h ((macChecks_none s).1 hc).key]
    exact ⟨rfl, h.2⟩

omit h in
/-- INIT derives every key set the new context uses, or leaves none valid (45_commands.md R213 to R215). -/
theorem execInit_withRk : OutcomeRel HiddenKeysDiffer (execInit s) (execInit (s.withRk k)) := by
  have hoperand : operandChecks (s.withRk k) [1] = operandChecks s [1] := rfl
  have hchecks : initChecks (s.withRk k) = initChecks s := rfl
  have hvalid : keyBitsValid (s.withRk k) = keyBitsValid s := rfl
  have hbits : keyBits (s.withRk k) = keyBits s := rfl
  rw [execInit, execInit, hoperand, hchecks, hvalid, hbits]
  cases firstFault (operandChecks s [1]) with
  | some f => exact rfl
  | none =>
    refine OutcomeRel.ite Iff.rfl ?_ ⟨rfl, nofun⟩
    cases firstFault (initChecks s) with
    | some f => exact rfl
    | none =>
      obtain ⟨a0, a1, a2⟩ := tripleKeyFile_get s
      obtain ⟨b0, b1, b2⟩ := tripleKeyFile_get (s.withRk k)
      refine OutcomeRel.ite Iff.rfl ⟨rfl, fun _ => ⟨a0.trans b0.symm, fun _ => ⟨a1.trans b1.symm, a2.trans b2.symm⟩⟩⟩
        ⟨rfl, fun _ => ⟨?_, nofun⟩⟩
      exact (singleKeyFile_get s).1.trans (singleKeyFile_get (s.withRk k)).1.symm

theorem exec_withRk (i : Instr) : OutcomeRel HiddenKeysDiffer (exec i s) (exec i (s.withRk k)) := by
  cases i with
  | construct => exact ⟨rfl, nofun⟩
  | init => exact execInit_withRk
  | transformE => exact runUnchained_withRk h (ecbEncrypt_withRk h)
  | transformD => exact runUnchained_withRk h (ecbDecrypt_withRk h)
  | transformECbc => exact runChained_withRk h (cbcEncrypt_withRk h)
  | transformDCbc => exact runChained_withRk h (cbcDecrypt_withRk h)
  | mac => exact execMac_withRk h

/-! ### The host's actions -/

theorem writeReg_withRk (reg : HostReg) (v : BitVec 64) :
    OutcomeRel HiddenKeysDiffer (writeReg reg v s) (writeReg reg v (s.withRk k)) := by
  cases reg with
  | cmd =>
    simp only [writeReg, runCommand]
    cases decode (v.setWidth 32) with
    | ok i => exact exec_withRk h i
    | error _ => exact rfl
  | status => exact rfl
  | info => exact rfl
  | arg n => exact ⟨rfl, h.2⟩

theorem readReg_withRk (reg : HostReg) :
    OutcomeRel HiddenKeysDiffer (readReg reg s) (readReg reg (s.withRk k)) := by
  cases reg with
  | cmd => exact rfl
  | status => exact ⟨rfl, h.2⟩
  | info => exact ⟨rfl, h.2⟩
  | arg n => exact OutcomeRel.ite Iff.rfl ⟨rfl, h.2⟩ rfl

theorem hostAct_withRk (a : HostAction) :
    OutcomeRel HiddenKeysDiffer (hostAct a s) (hostAct a (s.withRk k)) := by
  cases a with
  | regWrite r w v =>
    simp only [hostAct, State.withRk_params]
    cases selectReg s.params r with
    | none => exact rfl
    | some reg => exact OutcomeRel.ite Iff.rfl (writeReg_withRk h reg v) rfl
  | regRead r w =>
    simp only [hostAct, State.withRk_params]
    cases selectReg s.params r with
    | none => exact rfl
    | some reg => exact OutcomeRel.ite Iff.rfl (readReg_withRk h reg) rfl
  | memStore x b => exact OutcomeRel.ite Iff.rfl ⟨rfl, h.2⟩ rfl
  | memLoad x => exact OutcomeRel.ite Iff.rfl ⟨rfl, h.2⟩ rfl
  | reset => exact HiddenKeysDiffer.refl _

theorem step_withRk : OutcomeRel HiddenKeysDiffer (step s) (step (s.withRk k)) := by
  have hstopped : stopped (s.withRk k) = stopped s := rfl
  simp only [step, stepHost, hstopped, State.withRk_host]
  cases stopped s with
  | some o => exact OutcomeRel.refl HiddenKeysDiffer.refl o
  | none =>
    cases s.host with
    | nil => exact h
    | cons a rest => exact hostAct_withRk (s := s.withHost rest) ⟨rfl, h.2⟩ a

end Hidden

/-- Settles O58: every operation answers alike whatever the unused key sets hold. -/
theorem unusedKeySetsAreUnobservable : Obligations.UnusedKeySetsAreUnobservable := by
  intro s t h
  obtain ⟨k, rfl⟩ : ∃ k, t = s.withRk k := ⟨t.rk, h.1.symm⟩
  exact step_withRk h

end Sys2Proof.Machine
end

section
/-! PROOFS. Buffer memory (spec/20_memory.md): the host's own byte accesses (R63) and the regions a command stores to
(R51). -/

namespace Sys2Proof.Machine

/-! ### One byte of the host -/

/-- A one-byte region is admitted exactly where the host has provided the byte: every 64-bit address lies in the
address space. -/
theorem admitted_byte_iff (p : Params) (a : BitVec 64) : admitted p ⟨a.toNat, 1⟩ = true ↔ IsMapped p a.toNat := by
  rw [← regionOk_iff]
  constructor
  · intro h
    exact (h Nat.one_pos).2 a.toNat (Nat.le_refl _) (Nat.lt_succ_self _)
  · intro h _
    refine ⟨a.isLt, fun x hlo hhi => ?_⟩
    obtain rfl : x = a.toNat := by omega
    exact h

section HostByte
variable {s : State} {a : BitVec 64}

theorem hostStore_mapped (h : IsMapped s.params a.toNat) (b : Byte) :
    hostStore a b s = .next (s.withMem (writeByte s.mem a.toNat b)) :=
  if_pos ((admitted_byte_iff s.params a).2 h)

theorem hostStore_unmapped (h : ¬IsMapped s.params a.toNat) (b : Byte) : hostStore a b s = .fault .outOfBounds :=
  if_neg (mt (admitted_byte_iff s.params a).1 h)

theorem hostLoad_mapped (h : IsMapped s.params a.toNat) :
    hostLoad a s = .next (s.withReply (some (.byte (readByte s.mem a.toNat)))) :=
  if_pos ((admitted_byte_iff s.params a).2 h)

theorem hostLoad_unmapped (h : ¬IsMapped s.params a.toNat) : hostLoad a s = .fault .outOfBounds :=
  if_neg (mt (admitted_byte_iff s.params a).1 h)

end HostByte

/-- Settles O13: the step is the host's own access, which goes on exactly at a mapped address. -/
theorem hostBytesAreSequential : Obligations.HostBytesAreSequential := by
  intro s rest a b hs
  rw [step_withHost_cons hs, step_withHost_cons hs]
  refine ⟨fun hm => ⟨⟨_, hostStore_mapped (s := s.withHost rest) hm b, rfl, fun x => ?_⟩,
    hostLoad_mapped (s := s.withHost rest) hm⟩, fun hm => ⟨hostStore_unmapped (s := s.withHost rest) hm b,
    hostLoad_unmapped (s := s.withHost rest) hm⟩⟩
  exact readByte_writeByte s.mem a.toNat x b

/-! ### The regions a command stores to -/

section Regions
variable {s t : State} {f : Block → Block → Block × Block} {x : Nat}

/-- TRANSFORM's block loop stores only to its `n` destination blocks. -/
theorem readByte_blockLoop_transform (src dst n : Nat) (cm : Block × Memory) (hx : ¬InRegion x dst (8 * n)) :
    readByte (blockLoop f src dst 8 n cm).2 x = readByte cm.2 x :=
  readByte_blockLoop_outside f src dst 8 cm n x fun k hk hin => hx ⟨by omega, by omega⟩

/-- MAC's block loop stores only to its eight destination bytes, and nowhere when it processes no block. -/
theorem readByte_blockLoop_mac (src dst n : Nat) (cm : Block × Memory) (hx : ¬(0 < n ∧ InRegion x dst 8)) :
    readByte (blockLoop f src dst 0 n cm).2 x = readByte cm.2 x :=
  readByte_blockLoop_outside f src dst 0 cm n x fun k hk hin => hx ⟨by omega, by omega, by omega⟩

theorem readByte_runUnchained (h : runUnchained f s = .next t) (hx : ¬InRegion x (dstAddr s) (8 * blockCount s)) :
    readByte t.mem x = readByte s.mem x := by
  obtain ⟨-, rfl⟩ := (runUnchained_next s f t).1 h
  exact readByte_blockLoop_transform _ _ _ _ hx

theorem readByte_runChained (h : runChained f s = .next t) (hx : ¬InRegion x (dstAddr s) (8 * blockCount s))
    (hiv : ¬InRegion x (ivAddr s) 8) : readByte t.mem x = readByte s.mem x := by
  obtain ⟨-, rfl⟩ := (runChained_next s f t).1 h
  exact (readByte_write64 _ _ _ _).trans ((if_neg hiv).trans (readByte_blockLoop_transform _ _ _ _ hx))

theorem readByte_execMac (h : execMac s = .next t) (hx : ¬(0 < blockCount s ∧ InRegion x (dstAddr s) 8)) :
    readByte t.mem x = readByte s.mem x := by
  obtain ⟨-, rfl⟩ := (execMac_next s t).1 h
  exact readByte_blockLoop_mac _ _ _ _ hx

end Regions

/-- Settles O55: CONSTRUCT and INIT keep memory as it is, and the others store by the block loop, the chained forms
then to the chaining-state buffer. -/
theorem commandsStoreOnlyToTheirRegions : Obligations.CommandsStoreOnlyToTheirRegions := by
  intro s t i x h
  obtain ⟨-, -, -, -, -, -, hkeep, -⟩ := commandsLeaveOtherFieldsAlone s t i h
  refine ⟨fun hi => by rw [hkeep hi], ?_, ?_, ?_⟩
  · rintro (rfl | rfl) hx
    · exact readByte_runUnchained (f := ecbEncrypt s) h hx
    · exact readByte_runUnchained (f := ecbDecrypt s) h hx
  · rintro (rfl | rfl) hx hiv
    · exact readByte_runChained (f := cbcEncrypt s) h hx hiv
    · exact readByte_runChained (f := cbcDecrypt s) h hx hiv
  · rintro rfl hx
    exact readByte_execMac h hx

end Sys2Proof.Machine
end

section
/-! PROOFS. The command words and the assembler's pseudo-instructions (spec/30_encoding.md R80 to R89). -/

namespace Sys2Proof.Machine

/-! ### Command words -/

/-- Settles O3. -/
theorem decodeAcceptsOnlyTableWords : Obligations.DecodeAcceptsOnlyTableWords :=
  fun _ _ => eq_encode_of_decode

/-- Settles O2. -/
theorem decodeUndoesEncode : Obligations.DecodeUndoesEncode := decode_encode

/-- Settles O1: the seven words are the encodings of the seven commands. -/
theorem tableWordsDecode : Obligations.TableWordsDecode :=
  ⟨decode_encode .construct, decode_encode .init, decode_encode .transformE, decode_encode .transformD,
    decode_encode .transformECbc, decode_encode .transformDCbc, decode_encode .mac⟩

/-- A word that encodes no command is refused whatever the state (30_encoding.md R84). -/
theorem runCommand_reserved {w : CmdWord} (h : ∀ i : Instr, w ≠ encode i) (s : State) :
    runCommand w s = .refused .reservedCommand := by
  cases hd : decode w with
  | ok i => exact absurd (eq_encode_of_decode hd) (h i)
  | error _ => rw [runCommand, hd]

/-- Settles O4: the CMD write runs the word, and a recorded refusal sets the REFUSED mark alone. -/
theorem reservedWordsAreRefused : Obligations.ReservedWordsAreRefused := by
  intro s rest v hs hv c
  have hstep : step c = .refused .reservedCommand := calc
    step c = hostAct (.regWrite (.num 0) .w32 v) (s.withHost rest) := step_withHost_cons hs _ rest
    _ = runCommand (v.setWidth 32) (s.withHost rest) := hostAct_regWrite_ownWidth (reg := .cmd) rfl v
    _ = .refused .reservedCommand := runCommand_reserved hv _
  exact ⟨hstep, by rw [hstep, recordOutcome]⟩

/-! ### Pseudo-instructions -/

/-- The ARGs written one after another, first operand first (30_encoding.md R89). -/
def writeOperands (s : State) (as : List (Fin 4 × BitVec 64)) : State :=
  as.foldl (fun t a => writeArg t a.1 a.2) s

theorem writeOperands_unmarked (as : List (Fin 4 × BitVec 64)) {s : State} (h : Unmarked s) :
    Unmarked (writeOperands s as) := by
  induction as generalizing s with
  | nil => exact h
  | cons a as ih => exact ih (s := writeArg s a.1 a.2) h

/-- A WARG statement's step writes the ARG (30_encoding.md R88). -/
theorem step_warg {s : State} (h : Unmarked s) (n : Fin 4) (v : BitVec 64) (rest : List HostAction) :
    step (s.withHost (stmtAction (.warg n v) :: rest)) = .next ((writeArg s n v).withHost rest) :=
  (step_withHost_cons h _ rest).trans (hostAct_regWrite_ownWidth (r := .num (4 + n.val)) (regAt_arg n) v)

/-- A CMD statement's step runs the command its word encodes (30_encoding.md R88). -/
theorem step_cmd {s : State} (h : Unmarked s) (i : Instr) (rest : List HostAction) :
    step (s.withHost (stmtAction (.cmd (encode i)) :: rest)) = exec i (s.withHost rest) := by
  have hword : ((encode i).setWidth 64).setWidth 32 = encode i := by bv_omega
  refine (step_withHost_cons h _ rest).trans (hostAct_cmd rfl ?_)
  rw [hword, decode_encode]

/-- One step for each WARG statement writes all the operands and leaves the actions after them. -/
theorem run_wargs (as : List (Fin 4 × BitVec 64)) (rest : List HostAction) {s : State} (h : Unmarked s) :
    Sys2Proof.core.run as.length
        (s.withHost ((as.map fun a => HostStmt.warg a.1 a.2).map stmtAction ++ rest)) =
      .next ((writeOperands s as).withHost rest) := by
  induction as generalizing s with
  | nil => rfl
  | cons a as ih =>
    exact (run_succ_of_next (step_warg h a.1 a.2 _) as.length).trans (ih (s := writeArg s a.1 a.2) h)

/-- A program of one pseudo-instruction is its WARG statements and then its CMD. -/
theorem programActions_singleton (p : Pseudo) :
    programActions [p] = ((pseudoArgs p).map fun a => HostStmt.warg a.1 a.2).map stmtAction ++
      [stmtAction (.cmd (encode (pseudoInstr p)))] := by
  simp [programActions, expandPseudo]

/-- Settles O15: the WARG steps keep the marks clear, so the CMD step runs the command. -/
theorem pseudoInstructionsExpand : Obligations.PseudoInstructionsExpand := by
  intro s p hs ready
  have hready : Unmarked ready := writeOperands_unmarked (pseudoArgs p) hs
  refine ⟨?_, step_cmd hready (pseudoInstr p) []⟩
  rw [programActions_singleton]
  exact run_wargs (pseudoArgs p) _ hs

end Sys2Proof.Machine
end

section
/-! PROOFS. The inverse law of the permutation engine and the final permutation (spec/40_permutation.md R113, R115). -/

namespace Sys2Proof.Machine

/-! ### The bits of an inverse permutation -/

/-- Without repeated indices, the bit a table sends input bit `j` to is that input bit (40_permutation.md R112). -/
theorem getLsbD_permuteInverse_of_nodup {w n : Nat} (x : BitVec n) {t : List Nat} (hnd : t.Nodup) {i j : Nat}
    (hi : i < w) (hj : j < t.length) (hji : t.getD (t.length - 1 - j) 0 = i) :
    (permuteInverse w x t).getLsbD i = x.getLsbD j := by
  rw [Bool.eq_iff_iff, getLsbD_permuteInverse]
  constructor
  · rintro ⟨-, k, hk, hki, hx⟩
    have hsame : t.length - 1 - k = t.length - 1 - j := by
      rw [← hji, List.getD_eq_getElem _ _ (by omega), List.getD_eq_getElem _ _ (by omega)] at hki
      exact hnd.getElem_inj_iff.1 hki
    obtain rfl : k = j := by omega
    exact hx
  · exact fun hx => ⟨hi, j, hj, hji, hx⟩

/-! ### The inverse law -/

/-- A table of `w` different indices below `w` takes some output bit from each input bit. -/
theorem exists_getD_eq_of_bijective {w : Nat} {t : List Nat} (hlen : t.length = w) (hnd : t.Nodup)
    (hlt : ∀ k ∈ t, k < w) {i : Nat} (hi : i < w) : ∃ j < w, t.getD (w - 1 - j) 0 = i := by
  have hperm : t.Perm (List.range w) :=
    (hnd.subperm fun k hk => List.mem_range.2 (hlt k hk)).perm_of_length_le (by simp [hlen])
  obtain ⟨m, hm, rfl⟩ := List.getElem_of_mem (hperm.mem_iff.2 (List.mem_range.2 hi))
  have hback : w - 1 - (w - 1 - m) = m := by omega
  exact ⟨w - 1 - m, by omega, by rw [hback, List.getD_eq_getElem _ _ hm]⟩

theorem permuteInverse_permute {w : Nat} {t : List Nat} (hlen : t.length = w) (hnd : t.Nodup)
    (hlt : ∀ k ∈ t, k < w) (x : BitVec w) : permuteInverse w (permute w x t) t = x := by
  refine BitVec.eq_of_getLsbD_eq fun i hi => ?_
  obtain ⟨j, hj, hji⟩ := exists_getD_eq_of_bijective hlen hnd hlt hi
  calc (permuteInverse w (permute w x t) t).getLsbD i
    _ = (permute w x t).getLsbD j := getLsbD_permuteInverse_of_nodup _ hnd hi (hlen ▸ hj) (hlen ▸ hji)
    _ = x.getLsbD i := by rw [getLsbD_permute x hlen, hji]; simp [hj]

theorem permute_permuteInverse {w : Nat} {t : List Nat} (hlen : t.length = w) (hnd : t.Nodup)
    (hlt : ∀ k ∈ t, k < w) (x : BitVec w) : permute w (permuteInverse w x t) t = x := by
  refine BitVec.eq_of_getLsbD_eq fun i hi => ?_
  have hentry : t.getD (w - 1 - i) 0 < w := by
    rw [List.getD_eq_getElem _ _ (by omega)]
    exact hlt _ (List.getElem_mem _)
  rw [getLsbD_permute _ hlen, getLsbD_permuteInverse_of_nodup x hnd hentry (hlen ▸ hi) (by rw [hlen])]
  simp [hi]

theorem ipTable_nodup : ipTable.Nodup := by decide

theorem ipTable_lt : ∀ k ∈ ipTable, k < 64 := by simpa [tableInside] using tables_inside.1

/-- Settles O20: a bijective table sends exactly one input bit to each output bit, so scatter and gather undo each other. -/
theorem permuteInverseIsInverse : Obligations.PermuteInverseIsInverse :=
  ⟨fun _ _ hlen hnd hlt x => ⟨permuteInverse_permute hlen hnd hlt x, permute_permuteInverse hlen hnd hlt x⟩,
    tables_length.1, ipTable_nodup, ipTable_lt⟩

/-! ### The final permutation -/

/-- Scattering by `t` is gathering by `u`, where `u` names for each output bit an input bit that `t` sends there. -/
theorem permuteInverse_eq_permute {w n : Nat} {t u : List Nat} (hnd : t.Nodup) (hlen : u.length = w)
    (hinv : ∀ i < w, u.getD (w - 1 - i) 0 < t.length ∧
      t.getD (t.length - 1 - u.getD (w - 1 - i) 0) 0 = i) (x : BitVec n) :
    permuteInverse w x t = permute w x u := by
  refine BitVec.eq_of_getLsbD_eq fun i hi => ?_
  obtain ⟨hj, hji⟩ := hinv i hi
  rw [getLsbD_permuteInverse_of_nodup x hnd hi hj hji, getLsbD_permute x hlen]
  simp [hi]

/-- FP names for each output bit the input bit that IP sends there (40_permutation.md R115). -/
theorem fpTable_inverts_ipTable : ∀ i < 64, fpTable.getD (64 - 1 - i) 0 < ipTable.length ∧
    ipTable.getD (ipTable.length - 1 - fpTable.getD (64 - 1 - i) 0) 0 = i := by
  decide

/-- Settles O21: the FP table is the inverse of the IP table, entry by entry. -/
theorem finalPermutationTableAgrees : Obligations.FinalPermutationTableAgrees :=
  permuteInverse_eq_permute ipTable_nodup rfl fpTable_inverts_ipTable

end Sys2Proof.Machine
end

section
/-! PROOFS. The two substitution ROMs and the equality of the two forms (spec/41_sbox.md R132 to R138). -/

namespace Sys2Proof.Machine

/-! ### The round permutation works bit by bit -/

theorem permute_or {n w : Nat} (x y : BitVec w) {t : List Nat} (ht : t.length = n) :
    permute n (x ||| y) t = permute n x t ||| permute n y t := by
  refine BitVec.eq_of_getLsbD_eq fun i hi => ?_
  simp only [BitVec.getLsbD_or, getLsbD_permute _ ht, hi, decide_true, Bool.true_and]

theorem permute_and {n w : Nat} (x y : BitVec w) {t : List Nat} (ht : t.length = n) :
    permute n (x &&& y) t = permute n x t &&& permute n y t := by
  refine BitVec.eq_of_getLsbD_eq fun i hi => ?_
  simp only [BitVec.getLsbD_and, getLsbD_permute _ ht, hi, decide_true, Bool.true_and]

theorem pTable_length : pTable.length = 32 := rfl

/-! ### The slots of the boxes -/

/-- A box output in its slot, before the round permutation (41_sbox.md R134, R138). -/
def inSlot (i : Fin 8) (v : BitVec 4) : Half := v.setWidth 32 <<< (28 - 4 * i.val)

theorem inSlot_and_slotMask : ∀ (i : Fin 8) (v : BitVec 4), inSlot i v &&& slotMask i = inSlot i v := by
  decide +kernel

/-- Eight outputs side by side are the OR of the eight in their slots: S1 on top (41_sbox.md R134). -/
theorem append_eq_or_inSlot (v0 v1 v2 v3 v4 v5 v6 v7 : BitVec 4) :
    (v0 ++ v1 ++ v2 ++ v3 ++ v4 ++ v5 ++ v6 ++ v7 : Half) =
      inSlot 0 v0 ||| inSlot 1 v1 ||| inSlot 2 v2 ||| inSlot 3 v3 ||| inSlot 4 v4 ||| inSlot 5 v5 |||
        inSlot 6 v6 ||| inSlot 7 v7 := by
  refine BitVec.eq_of_getLsbD_eq fun i hi => ?_
  simp only [inSlot, BitVec.getLsbD_append, BitVec.getLsbD_or, BitVec.getLsbD_shiftLeft, BitVec.getLsbD_setWidth]
  interval_cases i <;> simp

/-! ### The contents of the ROMs -/

/-- The compact ROM holds the boxes, two outputs to a byte (41_sbox.md R132, R133). -/
theorem sboxCompact_eq_sboxValue : ∀ (i : Fin 8) (j : BitVec 6), sboxCompact i j = sboxValue i j := by
  decide +kernel

/-- The fused ROM holds the box outputs in their slots, permuted (41_sbox.md R135, R137). -/
theorem sboxFused_eq_permute : ∀ (i : Fin 8) (j : BitVec 6),
    sboxFused i j = permute 32 (inSlot i (sboxValue i j)) pTable := by
  decide +kernel

theorem permute_inSlot_sboxCompact (i : Fin 8) (j : BitVec 6) :
    permute 32 (inSlot i (sboxCompact i j)) pTable = sboxFused i j := by
  rw [sboxCompact_eq_sboxValue, sboxFused_eq_permute]

/-- Settles O22, entry by entry. -/
theorem romsHoldTheBoxes : Obligations.RomsHoldTheBoxes :=
  fun i j => ⟨sboxCompact_eq_sboxValue i j, sboxFused_eq_permute i j⟩

/-! ### The slot masks -/

theorem sboxFused_and_slotMask (i : Fin 8) (j : BitVec 6) :
    sboxFused i j &&& permute 32 (slotMask i) pTable = sboxFused i j := by
  rw [sboxFused_eq_permute, ← permute_and _ _ pTable_length, inSlot_and_slotMask]

/-- The permuted masks as the spec lists them (41_sbox.md R138). -/
theorem permute_slotMask : ((List.finRange 8).map fun i => permute 32 (slotMask i) pTable) =
    [0x00808202#32, 0x40084010#32, 0x04010104#32, 0x80401040#32, 0x21040080#32, 0x10202008#32, 0x02100401#32,
     0x08020820#32] := by
  decide

theorem slotMask_disjoint : ∀ i j : Fin 8, i ≠ j → slotMask i &&& slotMask j = 0#32 := by decide

/-- Settles O23: a fused entry is a box output inside its slot mask, and the round permutation keeps AND and OR. -/
theorem fusedEntriesStayInTheirSlots : Obligations.FusedEntriesStayInTheirSlots := by
  refine ⟨fun i j => ?_, permute_slotMask, fun i j hij => ?_, ?_⟩
  · rw [← sboxFused_and_slotMask, BitVec.and_assoc, BitVec.and_not_self]
    exact BitVec.and_zero
  · rw [← permute_and _ _ pTable_length, slotMask_disjoint i j hij]
    rfl
  · rw [permute_slotMask]
    rfl

/-! ### A whole round -/

theorem substCompact_eq_substFused (x : BitVec 48) : substCompact x = substFused x := by
  simp only [substCompact, substFused, append_eq_or_inSlot, permute_or _ _ pTable_length,
    permute_inSlot_sboxCompact]

/-! ### The round function -/

/-- The round function's registers after groups 0 to `n - 1` (43_feistel.md R171). -/
def groupsAfter (form : SboxForm) (x : Half) (k : SubKey) (n : Nat) : RoundRegs :=
  (List.range n).foldl (fun g t => roundGroup form t g) (roundStart x k)

theorem groupsAfter_succ (form : SboxForm) (x : Half) (k : SubKey) (n : Nat) :
    groupsAfter form x k (n + 1) = roundGroup form n (groupsAfter form x k n) := by
  rw [groupsAfter, List.range_succ, List.foldl_append]
  rfl

/-- The output of group `t`, put on top and shifted down once by each later group, ends in its box's slot. -/
theorem shift_top_eq_inSlot : ∀ (t : Fin 8) (v : BitVec 4),
    (v.setWidth 32 <<< 28 : Half) >>> (28 - 4 * t.val) = inSlot (Fin.ofNat 8 (7 - t.val)) v := by
  decide +kernel

/-- After each group the two forms hold equal inputs, and the fused output is the compact one, moved down by the
shifts still to come and permuted (41_sbox.md R136, 43_feistel.md R171). -/
theorem groupsAfter_forms (x : Half) (k : SubKey) {n : Nat} (hn : n ≤ 8) :
    (groupsAfter .fused x k n).r = (groupsAfter .compact x k n).r ∧
    (groupsAfter .fused x k n).kk = (groupsAfter .compact x k n).kk ∧
    (groupsAfter .fused x k n).out = permute 32 ((groupsAfter .compact x k n).out >>> (32 - 4 * n)) pTable := by
  induction n with
  | zero =>
    have hempty : 0#32 = permute 32 (0#32 >>> 32) pTable := by decide
    exact ⟨rfl, rfl, hempty⟩
  | succ n ih =>
    obtain ⟨hr, hkk, hout⟩ := ih (by omega)
    have hlater : 32 - 4 * (n + 1) = 28 - 4 * n := by omega
    have hshift : 4 + (28 - 4 * n) = 32 - 4 * n := by omega
    have htop := shift_top_eq_inSlot ⟨n, hn⟩
    simp only [groupsAfter_succ, roundGroup, hr, hkk, hout, true_and]
    rw [hlater, BitVec.ushiftRight_or_distrib, htop, ← BitVec.shiftRight_add, hshift,
      permute_or _ _ pTable_length, permute_inSlot_sboxCompact]

theorem feistel_fused_eq (x : Half) (k : SubKey) : feistel .fused x k = (groupsAfter .fused x k 8).out := rfl

theorem feistel_compact_eq (x : Half) (k : SubKey) :
    feistel .compact x k = permute 32 (groupsAfter .compact x k 8).out pTable := rfl

theorem feistel_compact_eq_fused (x : Half) (k : SubKey) : feistel .compact x k = feistel .fused x k := by
  obtain ⟨-, -, hout⟩ := groupsAfter_forms x k (n := 8) le_rfl
  rw [feistel_compact_eq, feistel_fused_eq, hout]
  rfl

/-- Settles O24: the round permutation distributes over the OR of the slots, so it may be applied entry by entry. -/
theorem substitutionFormsAgree : Obligations.SubstitutionFormsAgree :=
  ⟨permute_inSlot_sboxCompact, substCompact_eq_substFused, feistel_compact_eq_fused⟩

end Sys2Proof.Machine
end

section
/-! PROOFS. The substitution form the core holds cannot be observed (spec/41_sbox.md R136, R139). Two states that differ
at most there are `s` and `s.withForm f`, so each operation is compared with itself on those two; only the round
function reads the form. -/

namespace Sys2Proof.Machine

/-! ### The ciphers do not depend on the form -/

theorem feistel_eq_fused : ∀ form : SboxForm, feistel form = feistel .fused
  | .fused => rfl
  | .compact => funext fun x => funext fun k => feistel_compact_eq_fused x k

theorem desRounds_eq_fused (form : SboxForm) (ks : KeySet) (dec : Bool) (n : Nat) (x : Block) :
    desRounds form ks dec n x = desRounds .fused ks dec n x := by
  induction n with
  | zero => rfl
  | succ n ih => rw [desRounds, ih, desRound, feistel_eq_fused form, ← desRound, ← desRounds]

theorem desBlock_eq_fused (form : SboxForm) (x : Block) (ks : KeySet) (dec : Bool) :
    desBlock form x ks dec = desBlock .fused x ks dec := by
  rw [desBlock, desRounds_eq_fused, ← desBlock]

/-! ### A state with the other ROM -/

/-- The state with another `SBOX_FORM`. -/
def State.withForm (s : State) (f : SboxForm) : State := s.withParams { s.params with sboxForm := f }

theorem formsDiffer_iff {s t : State} : FormsDiffer s t ↔ ∃ f, s.withForm f = t := by
  constructor
  · exact fun h => ⟨t.params.sboxForm, h⟩
  · rintro ⟨f, rfl⟩
    rfl

theorem formsDiffer_withForm (s : State) (f : SboxForm) : FormsDiffer s (s.withForm f) := rfl

section Form
variable (s : State) (f : SboxForm)

theorem encCtx_withForm : encCtx (s.withForm f) = encCtx s := by
  funext x
  simp only [encCtx, desBlock_eq_fused (s.withForm f).params.sboxForm, desBlock_eq_fused s.params.sboxForm]
  rfl

theorem decCtx_withForm : decCtx (s.withForm f) = decCtx s := by
  funext x
  simp only [decCtx, desBlock_eq_fused (s.withForm f).params.sboxForm, desBlock_eq_fused s.params.sboxForm]
  rfl

/-! ### Commands: no check reads the form -/

theorem runUnchained_withForm {g g' : Block → Block → Block × Block} (hg : g' = g) :
    OutcomeRel FormsDiffer (runUnchained g s) (runUnchained g' (s.withForm f)) := by
  have hchecks : unchainedChecks (s.withForm f) = unchainedChecks s := rfl
  rw [runUnchained, runUnchained, hchecks, hg]
  cases firstFault (unchainedChecks s) with
  | some r => exact rfl
  | none => exact formsDiffer_withForm _ f

theorem runChained_withForm {g g' : Block → Block → Block × Block} (hg : g' = g) :
    OutcomeRel FormsDiffer (runChained g s) (runChained g' (s.withForm f)) := by
  have hchecks : chainedChecks (s.withForm f) = chainedChecks s := rfl
  rw [runChained, runChained, hchecks, hg]
  cases firstFault (chainedChecks s) with
  | some r => exact rfl
  | none => exact formsDiffer_withForm _ f

theorem execMac_withForm : OutcomeRel FormsDiffer (execMac s) (execMac (s.withForm f)) := by
  have hchecks : macChecks (s.withForm f) = macChecks s := rfl
  have hcipher : cbcEncrypt (s.withForm f) = cbcEncrypt s := by
    funext x cv
    simp only [cbcEncrypt, encCtx_withForm]
  rw [execMac, execMac, hchecks, hcipher]
  cases firstFault (macChecks s) with
  | some r => exact rfl
  | none => exact formsDiffer_withForm _ f

theorem execInit_withForm : OutcomeRel FormsDiffer (execInit s) (execInit (s.withForm f)) := by
  have hoperand : operandChecks (s.withForm f) [1] = operandChecks s [1] := rfl
  have hchecks : initChecks (s.withForm f) = initChecks s := rfl
  rw [execInit, execInit, hoperand, hchecks]
  cases firstFault (operandChecks s [1]) with
  | some r => exact rfl
  | none =>
    refine OutcomeRel.ite Iff.rfl ?_ (formsDiffer_withForm _ f)
    cases firstFault (initChecks s) with
    | some r => exact rfl
    | none => exact OutcomeRel.ite Iff.rfl (formsDiffer_withForm _ f) (formsDiffer_withForm _ f)

theorem exec_withForm (i : Instr) : OutcomeRel FormsDiffer (exec i s) (exec i (s.withForm f)) := by
  cases i with
  | construct => exact formsDiffer_withForm _ f
  | init => exact execInit_withForm s f
  | transformE => exact runUnchained_withForm s f (by funext x cv; simp only [ecbEncrypt, encCtx_withForm])
  | transformD => exact runUnchained_withForm s f (by funext x cv; simp only [ecbDecrypt, decCtx_withForm])
  | transformECbc => exact runChained_withForm s f (by funext x cv; simp only [cbcEncrypt, encCtx_withForm])
  | transformDCbc => exact runChained_withForm s f (by funext x cv; simp only [cbcDecrypt, decCtx_withForm])
  | mac => exact execMac_withForm s f

/-! ### The host's actions -/

theorem writeReg_withForm (reg : HostReg) (v : BitVec 64) :
    OutcomeRel FormsDiffer (writeReg reg v s) (writeReg reg v (s.withForm f)) := by
  cases reg with
  | cmd =>
    simp only [writeReg, runCommand]
    cases decode (v.setWidth 32) with
    | ok i => exact exec_withForm s f i
    | error _ => exact rfl
  | status => exact rfl
  | info => exact rfl
  | arg n => exact formsDiffer_withForm _ f

theorem readReg_withForm (reg : HostReg) : OutcomeRel FormsDiffer (readReg reg s) (readReg reg (s.withForm f)) := by
  cases reg with
  | cmd => exact rfl
  | status => exact formsDiffer_withForm _ f
  | info => exact formsDiffer_withForm _ f
  | arg n => exact OutcomeRel.ite Iff.rfl (formsDiffer_withForm _ f) rfl

/-- Which register an access names depends on `REG_BASE` alone (10_state.md R28). -/
theorem selectReg_withForm (r : RegSel) : selectReg (s.withForm f).params r = selectReg s.params r := by
  cases r <;> rfl

theorem hostAct_withForm (a : HostAction) : OutcomeRel FormsDiffer (hostAct a s) (hostAct a (s.withForm f)) := by
  cases a with
  | regWrite r w v =>
    simp only [hostAct, selectReg_withForm]
    cases selectReg s.params r with
    | none => exact rfl
    | some reg => exact OutcomeRel.ite Iff.rfl (writeReg_withForm s f reg v) rfl
  | regRead r w =>
    simp only [hostAct, selectReg_withForm]
    cases selectReg s.params r with
    | none => exact rfl
    | some reg => exact OutcomeRel.ite Iff.rfl (readReg_withForm s f reg) rfl
  | memStore x b => exact OutcomeRel.ite Iff.rfl (formsDiffer_withForm _ f) rfl
  | memLoad x => exact OutcomeRel.ite Iff.rfl (formsDiffer_withForm _ f) rfl
  | reset => exact formsDiffer_withForm _ f

theorem step_withForm : OutcomeRel FormsDiffer (step s) (step (s.withForm f)) := by
  have hstopped : stopped (s.withForm f) = stopped s := rfl
  have hhost : (s.withForm f).host = s.host := rfl
  simp only [step, stepHost, hstopped, hhost]
  cases stopped s with
  | some o => exact OutcomeRel.refl (fun t => formsDiffer_withForm t t.params.sboxForm) o
  | none =>
    cases s.host with
    | nil => exact formsDiffer_withForm s f
    | cons a rest => exact hostAct_withForm (s.withHost rest) f a

end Form

/-- Settles O59: the round function answers alike in both forms, and nothing else reads the form. -/
theorem sboxFormIsUnobservable : Obligations.SboxFormIsUnobservable := by
  intro s t h
  obtain ⟨f, rfl⟩ := formsDiffer_iff.1 h
  exact step_withForm s f

end Sys2Proof.Machine
end

section
/-! PROOFS. The key schedule (spec/42_key_schedule.md R151 to R157): PC-1 reads no parity bit, and the halves after a
round are PC-1's halves rotated by the number of rotations so far, which is 28, a full turn, after round 15. -/

namespace Sys2Proof.Machine

/-! ### Rotation of a word -/

theorem rotateLeft_rotateLeft {w : Nat} (x : BitVec w) (m n : Nat) :
    (x.rotateLeft m).rotateLeft n = x.rotateLeft (m + n) := by
  refine BitVec.eq_of_getMsbD_eq fun i hi => ?_
  have hpos : 0 < w := by omega
  simp [BitVec.getMsbD_rotateLeft, Nat.mod_lt _ hpos, add_assoc]

theorem rotateLeft_width {w : Nat} (x : BitVec w) : x.rotateLeft w = x := by
  refine BitVec.eq_of_getMsbD_eq fun i hi => ?_
  simp [BitVec.getMsbD_rotateLeft, hi, Nat.mod_eq_of_lt hi]

/-- A word of equal bits is left unchanged by every rotation (42_key_schedule.md R157). -/
theorem rotateLeft_eq_self_of_constant {w : Nat} {x : BitVec w} (hx : x = 0#w ∨ x = BitVec.allOnes w) (n : Nat) :
    x.rotateLeft n = x := by
  refine BitVec.eq_of_getMsbD_eq fun i hi => ?_
  have hlt : (n + i) % w < w := Nat.mod_lt _ (by omega)
  obtain rfl | rfl := hx
  · simp [BitVec.getMsbD_rotateLeft]
  · simp [BitVec.getMsbD_rotateLeft, BitVec.getMsbD_allOnes, hi, hlt]

/-! ### Rotation of the halves -/

/-- Both halves rotated left by `n` (42_key_schedule.md R152). -/
def KeyHalves.rotate (h : KeyHalves) (n : Nat) : KeyHalves := ⟨h.c.rotateLeft n, h.d.rotateLeft n⟩

theorem keyRotate_eq_rotate (h : KeyHalves) : keyRotate h = h.rotate 1 := rfl

theorem KeyHalves.rotate_rotate (h : KeyHalves) (m n : Nat) : (h.rotate m).rotate n = h.rotate (m + n) := by
  simp only [KeyHalves.rotate, rotateLeft_rotateLeft]

theorem KeyHalves.rotate_full (h : KeyHalves) : h.rotate 28 = h := by
  simp only [KeyHalves.rotate, rotateLeft_width]

/-! ### The halves after each round -/

/-- The number of rotations in round `r` (42_key_schedule.md R153). -/
def rotationCount (r : Nat) : Nat := if rotatesTwice r then 2 else 1

/-- The number of rotations in rounds 0 to `r` (42_key_schedule.md R153). -/
def rotationsThrough : Nat → Nat
  | 0 => rotationCount 0
  | r + 1 => rotationsThrough r + rotationCount (r + 1)

theorem rotateForRound_eq_rotate (r : Nat) (h : KeyHalves) : rotateForRound r h = h.rotate (rotationCount r) := by
  unfold rotateForRound rotationCount
  split
  · simp only [keyRotate_eq_rotate, KeyHalves.rotate_rotate]
  · exact keyRotate_eq_rotate h

theorem halvesAfter_eq_rotate (k : Block) (r : Nat) :
    halvesAfter k r = (selectHalves k).rotate (rotationsThrough r) := by
  induction r with
  | zero => exact rotateForRound_eq_rotate 0 _
  | succ r ih => rw [halvesAfter, ih, rotateForRound_eq_rotate, KeyHalves.rotate_rotate, ← rotationsThrough]

theorem genRoundKeys_getElem (k : Block) (r : Fin 16) :
    (genRoundKeys k)[r] = compressHalves ((selectHalves k).rotate (rotationsThrough r)) :=
  (Vector.getElem_ofFn r.isLt).trans (congrArg compressHalves (halvesAfter_eq_rotate k r))

/-- The schedule depends on the key only through PC-1's halves. -/
theorem genRoundKeys_congr {k k' : Block} (h : selectHalves k = selectHalves k') :
    genRoundKeys k = genRoundKeys k' := by
  simp only [genRoundKeys, halvesAfter_eq_rotate, h]

/-! ### Parity bits -/

/-- `permute` reads only the bits its table names (40_permutation.md R111). -/
theorem permute_congr {n w : Nat} {x y : BitVec w} {t : List Nat} (h : ∀ i ∈ t, x.getLsbD i = y.getLsbD i) :
    permute n x t = permute n y t :=
  List.foldl_ext _ _ _ fun res i hi => by rw [h i hi]

theorem pc1Table_skips_parity : ∀ i ∈ pc1Table, i < 64 ∧ i % 8 ≠ 0 := by decide

/-- Settles O27: PC-1 names no parity bit, and the rest of the schedule sees only PC-1's halves. -/
theorem keyScheduleIgnoresParity : Obligations.KeyScheduleIgnoresParity := by
  intro k k' h
  have hpc1 : permute 56 k pc1Table = permute 56 k' pc1Table := permute_congr fun i hi =>
    have ⟨hlt, hparity⟩ := pc1Table_skips_parity i hi
    h i hlt hparity
  exact genRoundKeys_congr (by rw [selectHalves, hpc1, ← selectHalves])

/-! ### The table of rotations -/

theorem rotationCount_table :
    ∀ r < 16, rotationCount r = [1, 1, 2, 2, 2, 2, 2, 2, 1, 2, 2, 2, 2, 2, 2, 1].getD r 0 := by
  decide

theorem rotationsThrough_table :
    ∀ r < 16, rotationsThrough r = [1, 2, 4, 6, 8, 10, 12, 14, 15, 17, 19, 21, 23, 25, 27, 28].getD r 0 := by
  decide

/-- Settles O28: successive rotations add up, by induction on the round, and the sums are the table's. -/
theorem keyHalvesRotateByTheTable : Obligations.KeyHalvesRotateByTheTable := by
  refine ⟨rotationCount_table, fun k r hr => ?_⟩
  rw [halvesAfter_eq_rotate, rotationsThrough_table r hr]
  rfl

/-! ### The closing of the schedule -/

/-- After round 15 the halves have made one full turn (42_key_schedule.md R157). -/
theorem halvesAfter_last (k : Block) : halvesAfter k 15 = selectHalves k := by
  rw [halvesAfter_eq_rotate, rotationsThrough_table 15 (by decide)]
  exact KeyHalves.rotate_full _

theorem KeyHalves.rotate_eq_self_of_constant {h : KeyHalves} (hc : h.c = 0#28 ∨ h.c = BitVec.allOnes 28)
    (hd : h.d = 0#28 ∨ h.d = BitVec.allOnes 28) (n : Nat) : h.rotate n = h := by
  rw [KeyHalves.rotate, rotateLeft_eq_self_of_constant hc, rotateLeft_eq_self_of_constant hd]

/-- Settles O29: the rotations add up to a full turn, and constant halves are unchanged by any of them. -/
theorem keyScheduleCloses : Obligations.KeyScheduleCloses := by
  refine fun k => ⟨halvesAfter_last k, fun hc hd r q => ?_⟩
  simp only [genRoundKeys_getElem, KeyHalves.rotate_eq_self_of_constant hc hd]

end Sys2Proof.Machine
end

section
/-! PROOFS. The round function is the standard one (spec/43_feistel.md R171 to R173): before group `t` the registers
show box `8 − t` the six bits that E and the round key give it, so each group looks up its box at the standard input. -/

namespace Sys2Proof.Machine

/-! ### Rotation to the right -/

theorem getLsbD_rotateRight_eq_mod {w : Nat} (x : BitVec w) (n : Nat) {i : Nat} (hi : i < w) :
    (x.rotateRight n).getLsbD i = x.getLsbD ((n + i) % w) := by
  have hn : n % w < w := Nat.mod_lt _ (by omega)
  rw [BitVec.getLsbD_rotateRight, ← Nat.mod_add_mod n w i]
  by_cases hwrap : i < w - n % w
  · have hidx : (n % w + i) % w = n % w + i := Nat.mod_eq_of_lt (by omega)
    simp only [hidx, hwrap, decide_true, cond_true]
  · have hidx : (n % w + i) % w = i - (w - n % w) := by
      rw [Nat.mod_eq_sub_mod (by omega), Nat.mod_eq_of_lt (by omega)]
      omega
    simp only [hidx, hwrap, hi, decide_false, decide_true, cond_false, Bool.true_and]

theorem rotateRight_rotateRight {w : Nat} (x : BitVec w) (m n : Nat) :
    (x.rotateRight m).rotateRight n = x.rotateRight (m + n) := by
  refine BitVec.eq_of_getLsbD_eq fun i hi => ?_
  have hlt : (n + i) % w < w := Nat.mod_lt _ (by omega)
  simp only [getLsbD_rotateRight_eq_mod, hi, hlt, Nat.add_mod_mod, Nat.add_assoc]

/-- The first rotation by one to the left is one by 31 to the right. -/
theorem roundStart_r (x : Half) (k : SubKey) : (roundStart x k).r = x.rotateRight 31 := BitVec.or_comm _ _

/-! ### The registers after each group -/

theorem groupsAfter_r (form : SboxForm) (x : Half) (k : SubKey) (n : Nat) :
    (groupsAfter form x k n).r = x.rotateRight (31 + 4 * n) := by
  induction n with
  | zero => exact roundStart_r x k
  | succ n ih =>
    simp only [groupsAfter_succ, roundGroup, ih, rotateRight_rotateRight]
    rfl

theorem groupsAfter_kk (form : SboxForm) (x : Half) (k : SubKey) (n : Nat) :
    (groupsAfter form x k n).kk = k >>> (6 * n) := by
  induction n with
  | zero => rfl
  | succ n ih =>
    simp only [groupsAfter_succ, roundGroup, ih, ← BitVec.shiftRight_add]
    rfl

/-! ### The wiring of the boxes -/

/-- The 48 bits the boxes read: the expanded half-block XOR the round key (43_feistel.md R173). -/
def expandedInput (x : Half) (k : SubKey) : BitVec 48 := permute 48 x eTable ^^^ k

/-- The index of the box that group `t` looks up (43_feistel.md R171). -/
def groupBox (t : Nat) : Fin 8 := Fin.ofNat 8 (7 - t)

theorem eTable_length : eTable.length = 48 := rfl

/-- Bit `m` of group `t` of E, as the rotated half-block delivers it (43_feistel.md R172). -/
theorem eTable_group : ∀ t < 8, ∀ m < 6, eTable.getD (48 - 1 - (6 * t + m)) 0 = (31 + 4 * t + m) % 32 := by
  decide

theorem groupBox_offset : ∀ t < 8, 42 - 6 * (groupBox t).val = 6 * t := by decide

/-- Group `t` feeds its box the six bits that expansion and key give it (43_feistel.md R172). -/
theorem groupsAfter_lookup (form : SboxForm) (x : Half) (k : SubKey) {t : Nat} (ht : t < 8) :
    (groupsAfter form x k t).r.extractLsb' 0 6 ^^^ (groupsAfter form x k t).kk.extractLsb' 0 6 =
      sboxInput (expandedInput x k) (groupBox t) := by
  refine BitVec.eq_of_getLsbD_eq fun m hm => ?_
  have hbit : 6 * t + m < 48 := by omega
  have hm32 : m < 32 := by omega
  rw [groupsAfter_r, groupsAfter_kk, sboxInput, groupBox_offset t ht, expandedInput]
  simp only [BitVec.getLsbD_xor, BitVec.getLsbD_extractLsb', BitVec.getLsbD_ushiftRight, Nat.zero_add, hm, hbit,
    decide_true, Bool.true_and, getLsbD_rotateRight_eq_mod x _ hm32, getLsbD_permute x eTable_length,
    eTable_group t ht m hm]

/-! ### The eight groups together -/

theorem groupsAfter_fused_out_succ (x : Half) (k : SubKey) {t : Nat} (ht : t < 8) :
    (groupsAfter .fused x k (t + 1)).out =
      (groupsAfter .fused x k t).out ||| sboxFused (groupBox t) (sboxInput (expandedInput x k) (groupBox t)) := by
  rw [← groupsAfter_lookup .fused x k ht, groupsAfter_succ]
  rfl

/-- The groups run from S8 to S1, and the order of the eight terms does not matter (43_feistel.md R172). -/
theorem feistel_fused_eq_substFused (x : Half) (k : SubKey) :
    feistel .fused x k = substFused (expandedInput x k) := by
  have hstart : (groupsAfter .fused x k 0).out = 0#32 := rfl
  have hbox : groupBox 0 = 7 ∧ groupBox 1 = 6 ∧ groupBox 2 = 5 ∧ groupBox 3 = 4 ∧ groupBox 4 = 3 ∧ groupBox 5 = 2 ∧
    groupBox 6 = 1 ∧ groupBox 7 = 0 := by decide
  rw [feistel_fused_eq, substFused]
  simp only [groupsAfter_fused_out_succ, Nat.reduceLT, hstart, hbox, BitVec.zero_or]
  ac_rfl

/-- One round's substitution, through the boxes as the spec tabulates them (41_sbox.md R134). -/
theorem substCompact_eq_permute_sboxLayer (x : BitVec 48) : substCompact x = permute 32 (sboxLayer x) pTable := by
  simp only [substCompact, sboxLayer, sboxCompact_eq_sboxValue]

/-- Settles O25: both forms are the fused one, whose eight look-ups are at the standard inputs. -/
theorem feistelIsTheStandardRound : Obligations.FeistelIsTheStandardRound := by
  intro form x k
  calc feistel form x k
    _ = feistel .fused x k := by rw [feistel_eq_fused]
    _ = substFused (expandedInput x k) := feistel_fused_eq_substFused x k
    _ = substCompact (expandedInput x k) := (substCompact_eq_substFused _).symm
    _ = permute 32 (sboxLayer (permute 48 x eTable ^^^ k)) pTable := substCompact_eq_permute_sboxLayer _

/-! ### Complemented operands -/

theorem eTable_lt : ∀ i ∈ eTable, i < 32 := by decide

/-- A table whose indices lie inside its input carries the complement of the input to that of the output. -/
theorem permute_not {n w : Nat} (x : BitVec w) {t : List Nat} (hlen : t.length = n) (hlt : ∀ k ∈ t, k < w) :
    permute n (~~~x) t = ~~~permute n x t := by
  refine BitVec.eq_of_getLsbD_eq fun i hi => ?_
  have hentry : t.getD (n - 1 - i) 0 < w := by
    rw [List.getD_eq_getElem _ _ (by omega)]
    exact hlt _ (List.getElem_mem _)
  simp only [getLsbD_permute _ hlen, BitVec.getLsbD_not, hi, hentry, decide_true, Bool.true_and]

/-- The expansion is complemented with the half-block, and the complemented key cancels that (43_feistel.md R171). -/
theorem expandedInput_not (x : Half) (k : SubKey) : expandedInput (~~~x) (~~~k) = expandedInput x k := by
  rw [expandedInput, permute_not x eTable_length eTable_lt, ← BitVec.not_xor_left,
    ← BitVec.not_xor_right, BitVec.not_not, expandedInput]

/-- Settles O26: the round function reads its operands only through the boxes' inputs, which stay the same. -/
theorem feistelIgnoresComplement : Obligations.FeistelIgnoresComplement := by
  intro form x k
  rw [feistel_eq_fused, feistel_fused_eq_substFused, expandedInput_not, ← feistel_fused_eq_substFused]

end Sys2Proof.Machine
end

section
/-! PROOFS. The single-block cipher (spec/44_block_cipher.md R191 to R194): a round is an append of two halves, so it is
undone by the same key after a swap, and it is complemented when its block and its key are. -/

namespace Sys2Proof.Machine

/-! ### The halves of a block -/

theorem high32_append (a b : Half) : high32 (a ++ b) = a := BitVec.extractLsb'_append_eq_left

theorem low32_append (a b : Half) : low32 (a ++ b) = b := BitVec.extractLsb'_append_eq_right

theorem high32_append_low32 (x : Block) : high32 x ++ low32 x = x := BitVec.extractLsb'_append_extractLsb'

theorem swap64_append (a b : Half) : swap64 (a ++ b) = b ++ a := by rw [swap64, low32_append, high32_append]

theorem swap64_swap64 (x : Block) : swap64 (swap64 x) = x :=
  calc swap64 (low32 x ++ high32 x)
    _ = high32 x ++ low32 x := swap64_append _ _
    _ = x := high32_append_low32 x

/-! ### One round -/

/-- A round as the source says it: the old low half, then the old high half XOR F (44_block_cipher.md R191). -/
theorem desRound_eq_append (form : SboxForm) (ks : KeySet) (dec : Bool) (i : Nat) (x : Block) :
    desRound form ks dec i x = low32 x ++ (high32 x ^^^ feistel form (low32 x) ks[keyIndex i dec]) := by
  have hzext (f : Half) : f.setWidth 64 = 0#32 ++ f := BitVec.setWidth_eq_append (by decide)
  rw [desRound, swap64, hzext, BitVec.xor_append, BitVec.xor_zero]

theorem keyIndex_encrypt (i : Fin 16) : keyIndex i.val false = i := Fin.ofNat_val_eq_self i

theorem keyIndex_decrypt (i : Fin 16) : (keyIndex i.val true).val = 15 - i.val :=
  Nat.mod_eq_of_lt (a := 15 - i.val) (by omega)

/-- Settles O30: the two halves of the append, and the key order of R192 for each direction. -/
theorem roundSwapsAndMixes : Obligations.RoundSwapsAndMixes := by
  intro form ks dec i x
  rw [desRound_eq_append, high32_append, low32_append]
  refine ⟨rfl, ?_⟩
  cases dec with
  | false => simp only [keyIndex_encrypt, Bool.false_eq_true, if_false]
  | true => simp only [Fin.getElem_fin, keyIndex_decrypt, if_true]

/-! ### The inverse law -/

/-- The other direction takes the keys in the opposite order (44_block_cipher.md R192). -/
theorem keyIndex_reversed (dec : Bool) {i j : Nat} (hij : i + j = 15) : keyIndex j (!dec) = keyIndex i dec := by
  have hi : 15 - j = i := by omega
  have hj : 15 - i = j := by omega
  cases dec with
  | false => simp [keyIndex, hi]
  | true => simp [keyIndex, hj]

/-- The other direction undoes a round on the swapped block: XOR with the same F twice (44_block_cipher.md R193). -/
theorem desRound_reversed (form : SboxForm) (ks : KeySet) (dec : Bool) {i j : Nat} (hij : i + j = 15) (x : Block) :
    desRound form ks (!dec) j (swap64 (desRound form ks dec i x)) = swap64 x := by
  have hkey : ks[keyIndex j (!dec)] = ks[keyIndex i dec] := by simp only [keyIndex_reversed dec hij]
  rw [desRound_eq_append form ks dec, swap64_append, desRound_eq_append, high32_append, low32_append, hkey,
    BitVec.xor_assoc, BitVec.xor_self, BitVec.xor_zero, swap64]

/-- The first `n` rounds of the other direction undo the last `n` of sixteen and leave the first `m`. -/
theorem desRounds_reversed (form : SboxForm) (ks : KeySet) (dec : Bool) (x : Block) {n m : Nat} (hnm : n + m = 16) :
    desRounds form ks (!dec) n (swap64 (desRounds form ks dec 16 x)) = swap64 (desRounds form ks dec m x) := by
  induction n generalizing m with
  | zero =>
    obtain rfl : m = 16 := by omega
    rfl
  | succ n ih => rw [desRounds, ih (m := m + 1) (by omega), desRounds, desRound_reversed form ks dec (by omega)]

/-- Either direction is undone by the other: IP cancels, and the final swap lines the rounds up. -/
theorem desBlock_reversed (form : SboxForm) (ks : KeySet) (dec : Bool) (x : Block) :
    desBlock form (desBlock form x ks dec) ks (!dec) = x := by
  have hrounds := desRounds_reversed form ks dec (permute 64 x ipTable) (n := 16) (m := 0) rfl
  rw [desBlock, desBlock, permute_permuteInverse tables_length.1 ipTable_nodup ipTable_lt, hrounds, swap64_swap64,
    desRounds, permuteInverse_permute tables_length.1 ipTable_nodup ipTable_lt]

/-- Settles O31: the inverse law in each direction. -/
theorem blockDirectionsInvert : Obligations.BlockDirectionsInvert :=
  fun form ks x => ⟨desBlock_reversed form ks false x, desBlock_reversed form ks true x⟩

/-! ### Equal round keys -/

/-- Settles O33: the rounds read the direction only to choose a key, and every choice gives the same key. -/
theorem equalKeysForgetDirection : Obligations.EqualKeysForgetDirection := by
  intro form ks x hkeys
  have hround (i : Nat) (y : Block) : desRound form ks true i y = desRound form ks false i y := by
    rw [desRound, hkeys _ (keyIndex i false), ← desRound]
  have hrounds (n : Nat) (y : Block) : desRounds form ks true n y = desRounds form ks false n y := by
    induction n with
    | zero => rfl
    | succ n ih => rw [desRounds, ih, hround, ← desRounds]
  rw [desBlock, hrounds, ← desBlock]

/-! ### The complement of a block -/

theorem extractLsb'_not_of_le {w start len : Nat} (x : BitVec w) (h : start + len ≤ w) :
    (~~~x).extractLsb' start len = ~~~x.extractLsb' start len := by
  refine BitVec.eq_of_getLsbD_eq fun i hi => ?_
  have hbit : start + i < w := by omega
  simp only [BitVec.getLsbD_extractLsb', BitVec.getLsbD_not, hi, hbit, decide_true, Bool.true_and]

theorem low32_not (x : Block) : low32 (~~~x) = ~~~low32 x := extractLsb'_not_of_le x (by decide)

theorem high32_not (x : Block) : high32 (~~~x) = ~~~high32 x := extractLsb'_not_of_le x (by decide)

theorem swap64_not (x : Block) : swap64 (~~~x) = ~~~swap64 x := by
  rw [swap64, low32_not, high32_not, ← BitVec.not_append, ← swap64]

theorem fpTable_lt : ∀ k ∈ fpTable, k < 64 := by decide

/-- The final permutation is the gather by FP, which carries complements (40_permutation.md R115). -/
theorem permuteInverse_ipTable_not (x : Block) :
    permuteInverse 64 (~~~x) ipTable = ~~~permuteInverse 64 x ipTable := by
  rw [finalPermutationTableAgrees, finalPermutationTableAgrees, permute_not (n := 64) x rfl fpTable_lt]

/-! ### The complement of a key -/

theorem rotateLeft_not {w : Nat} (x : BitVec w) (n : Nat) : (~~~x).rotateLeft n = ~~~x.rotateLeft n := by
  refine BitVec.eq_of_getMsbD_eq fun i hi => ?_
  have hlt : (n + i) % w < w := Nat.mod_lt _ (by omega)
  simp only [BitVec.getMsbD_rotateLeft, BitVec.getMsbD_not, hi, hlt, decide_true, Bool.true_and]

/-- Both halves complemented. -/
def KeyHalves.complement (h : KeyHalves) : KeyHalves := ⟨~~~h.c, ~~~h.d⟩

theorem KeyHalves.rotate_complement (h : KeyHalves) (n : Nat) : h.complement.rotate n = (h.rotate n).complement := by
  simp only [KeyHalves.rotate, KeyHalves.complement, rotateLeft_not]

theorem pc1Table_lt : ∀ k ∈ pc1Table, k < 64 := fun k hk => (pc1Table_skips_parity k hk).1

theorem pc2Table_lt : ∀ k ∈ pc2Table, k < 56 := by decide

theorem selectHalves_not (k : Block) : selectHalves (~~~k) = (selectHalves k).complement := by
  have hpc1 : permute 56 (~~~k) pc1Table = ~~~permute 56 k pc1Table := permute_not k rfl pc1Table_lt
  have hc := extractLsb'_not_of_le (start := 28) (len := 28) (permute 56 k pc1Table) (by decide)
  have hd := extractLsb'_not_of_le (start := 0) (len := 28) (permute 56 k pc1Table) (by decide)
  rw [selectHalves, hpc1, hc, hd]
  rfl

theorem compressHalves_complement (h : KeyHalves) : compressHalves h.complement = ~~~compressHalves h :=
  calc permute 48 (~~~h.c ++ ~~~h.d) pc2Table
    _ = permute 48 (~~~(h.c ++ h.d)) pc2Table := by rw [BitVec.not_append]
    _ = ~~~permute 48 (h.c ++ h.d) pc2Table := permute_not _ rfl pc2Table_lt

/-- The complemented key has the complemented round keys (42_key_schedule.md R155). -/
theorem genRoundKeys_not (k : Block) (r : Fin 16) : (genRoundKeys (~~~k))[r] = ~~~(genRoundKeys k)[r] := by
  rw [genRoundKeys_getElem, genRoundKeys_getElem, selectHalves_not, KeyHalves.rotate_complement,
    compressHalves_complement]

/-! ### The complementation law -/

/-- F stays the same, so a round on complemented operands complements both halves (44_block_cipher.md R194). -/
theorem desRound_not (form : SboxForm) (k : Block) (dec : Bool) (i : Nat) (x : Block) :
    desRound form (genRoundKeys (~~~k)) dec i (~~~x) = ~~~desRound form (genRoundKeys k) dec i x := by
  rw [desRound_eq_append, desRound_eq_append, low32_not, high32_not, genRoundKeys_not, feistelIgnoresComplement,
    ← BitVec.not_xor_left, ← BitVec.not_append]

theorem desRounds_not (form : SboxForm) (k : Block) (dec : Bool) (n : Nat) (x : Block) :
    desRounds form (genRoundKeys (~~~k)) dec n (~~~x) = ~~~desRounds form (genRoundKeys k) dec n x := by
  induction n with
  | zero => rfl
  | succ n ih => rw [desRounds, ih, desRound_not, ← desRounds]

/-- Settles O32: the permutations, the rounds and the last swap each carry the complement through. -/
theorem blockComplementation : Obligations.BlockComplementation := by
  intro form k x dec
  rw [desBlock, permute_not x tables_length.1 ipTable_lt, desRounds_not, swap64_not, permuteInverse_ipTable_not,
    ← desBlock]

end Sys2Proof.Machine
end

section
/-! PROOFS. The context's two compositions (spec/45_commands.md R216, R217) and the commands that write the context:
CONSTRUCT (R211) and INIT (R212 to R215). -/

namespace Sys2Proof.Machine

/-! ### The context's two directions -/

@[simp] theorem desBlock_decrypt_encrypt (form : SboxForm) (ks : KeySet) (x : Block) :
    desBlock form (desBlock form x ks false) ks true = x := (blockDirectionsInvert form ks x).1

@[simp] theorem desBlock_encrypt_decrypt (form : SboxForm) (ks : KeySet) (x : Block) :
    desBlock form (desBlock form x ks true) ks false = x := (blockDirectionsInvert form ks x).2

section Context
variable (s : State) (x : Block)

/-- The decrypt direction undoes the forward one, stage by stage from the last. -/
@[simp] theorem decCtx_encCtx : decCtx s (encCtx s x) = x := by
  cases ht : s.triple with
  | false => simp [encCtx, decCtx, ht]
  | true => simp [encCtx, decCtx, ht]

/-- The forward direction undoes the decrypt one, stage by stage from the last. -/
@[simp] theorem encCtx_decCtx : encCtx s (decCtx s x) = x := by
  cases ht : s.triple with
  | false => simp [encCtx, decCtx, ht]
  | true => simp [encCtx, decCtx, ht]

/-- With three equal key sets the middle stage undoes the first. -/
theorem encCtx_of_equal_sets (ht : s.triple = true) (h01 : s.rk[0] = s.rk[1]) (h12 : s.rk[1] = s.rk[2]) :
    encCtx s x = desBlock s.params.sboxForm x s.rk[0] false := by
  simp [encCtx, ht, ← h12, ← h01]

end Context

/-- Settles O34: the inverse law of the block cipher cancels the stages one by one. -/
theorem contextDirectionsInvert : Obligations.ContextDirectionsInvert :=
  fun s x => ⟨decCtx_encCtx s x, encCtx_decCtx s x, encCtx_of_equal_sets s x⟩

/-! ### Commands without a key -/

section Keyless
variable {s : State}

/-- After checks that pass, the first failing check is one of those that follow. -/
theorem firstFault_append_of_none {cs : List Check} (h : firstFault cs = none) (ds : List Check) :
    firstFault (cs ++ ds) = firstFault ds := by
  induction cs with
  | nil => rfl
  | cons c cs ih =>
    have hc := (firstFault_eq_none (c :: cs)).1 h
    have hcs := (firstFault_eq_none cs).2 fun d hd => hc d (List.mem_cons_of_mem c hd)
    simpa [firstFault, hc c List.mem_cons_self] using ih hcs

theorem operandChecks_none (h : ∀ n : Fin 4, argWritten s n = true) (ns : List (Fin 4)) :
    firstFault (operandChecks s ns) = none :=
  (firstFault_eq_none _).2 fun c hc => by
    obtain ⟨n, -, rfl⟩ := List.mem_map.1 hc
    simp [h n]

/-- With written operands the key check is the first that can fail (60_exceptions.md R267). -/
theorem firstFault_of_keyless (h : ∀ n : Fin 4, argWritten s n = true) (hk : s.keyValid = false) (ns : List (Fin 4))
    (cs : List Check) : firstFault (operandChecks s ns ++ (keyCheck s :: cs)) = some .uninitialized := by
  rw [firstFault_append_of_none (operandChecks_none h ns)]
  simp [firstFault, keyCheck, hk]

theorem runUnchained_fault {f : Block → Block → Block × Block} {r : Fault}
    (h : firstFault (unchainedChecks s) = some r) : runUnchained f s = .fault r := by
  rw [runUnchained, h]

theorem runChained_fault {f : Block → Block → Block × Block} {r : Fault}
    (h : firstFault (chainedChecks s) = some r) : runChained f s = .fault r := by
  rw [runChained, h]

theorem execMac_fault {r : Fault} (h : firstFault (macChecks s) = some r) : execMac s = .fault r := by
  rw [execMac, h]

end Keyless

/-- While KEY_VALID is 0, TRANSFORM and MAC fault with `Uninitialized` (10_state.md R23). -/
theorem keylessCommandsFault {t : State} (ht : t.keyValid = false) : KeylessCommandsFault t := by
  intro u hu hw i hi
  have keyFails := firstFault_of_keyless hw (hu.trans ht)
  have hun : firstFault (unchainedChecks u) = some .uninitialized := by
    simpa [unchainedChecks] using keyFails [0, 1, 2] _
  have hch : firstFault (chainedChecks u) = some .uninitialized := by
    simpa [chainedChecks] using keyFails [0, 1, 2, 3] _
  have hmac : firstFault (macChecks u) = some .uninitialized := by
    simpa [macChecks] using keyFails [0, 1, 2] _
  simp only [List.mem_cons, List.not_mem_nil, or_false] at hi
  rcases hi with rfl | rfl | rfl | rfl | rfl
  · exact runUnchained_fault (f := ecbEncrypt u) hun
  · exact runUnchained_fault (f := ecbDecrypt u) hun
  · exact runChained_fault (f := cbcEncrypt u) hch
  · exact runChained_fault (f := cbcDecrypt u) hch
  · exact execMac_fault hmac

/-! ### CONSTRUCT and INIT -/

theorem infoWord_eq_zero {s : State} (ht : s.triple = false) (hk : s.keyValid = false) : infoWord s = 0#32 := by
  rw [infoWord, ht, hk]
  rfl

/-- Settles O35: every round key of the replicated zero file is 0. -/
theorem constructZeroesTheContext : Obligations.ConstructZeroesTheContext := by
  intro s
  refine ⟨_, rfl, fun j r => ?_, rfl, rfl, infoWord_eq_zero rfl rfl, rfl, rfl,
    keylessCommandsFault rfl⟩
  simp [setContext, zeroRoundKeys, KeySet.zero]

/-- Settles O36: INIT reads neither ARG0 nor memory before it turns the length away. -/
theorem initRejectsOtherLengths : Obligations.InitRejectsOtherLengths := by
  intro s hw h64 h192
  have hlen : ¬(keyBits s = 64 ∨ keyBits s = 192) := not_or.2 ⟨h64, h192⟩
  exact ⟨_, (execInit_next s _).2 (.inl ⟨hw, hlen, rfl⟩), rfl,
    fun m => (execInit_next (s.withMem m) _).2 (.inl ⟨hw, hlen, rfl⟩), keylessCommandsFault rfl⟩

/-- Settles O37: the 64-bit case of INIT, and the sets its round-key file holds. -/
theorem initSingleDerivesKeySetZero : Obligations.InitSingleDerivesKeySetZero := by
  intro s hs h64
  obtain ⟨h0, h1, h2⟩ := singleKeyFile_get s
  exact ⟨_, (execInit_next s _).2 (.inr (.inl ⟨hs, h64, rfl⟩)), rfl, rfl, rfl, h0, h1, h2, rfl⟩

/-- Settles O38: the 192-bit case of INIT, and the sets its round-key file holds. -/
theorem initTripleDerivesThreeKeySets : Obligations.InitTripleDerivesThreeKeySets := by
  intro s hs h192
  obtain ⟨h0, h1, h2⟩ := tripleKeyFile_get s
  refine ⟨_, (execInit_next s _).2 (.inr (.inr ⟨hs, h192, rfl⟩)), rfl, rfl, rfl, fun j => ?_, rfl⟩
  match j with
  | 0 => exact h0
  | 1 => exact h1
  | 2 => exact h2

end Sys2Proof.Machine
end

section
/-! PROOFS. TRANSFORM and MAC (spec/45_commands.md R218 to R226): the block loop's outputs and chain values in the terms
of the statements, and what each family of commands leaves in memory. -/

namespace Sys2Proof.Machine

/-! ### The block loop in the statements' terms -/

section Streams
variable (s : State) (iv : Block) (k : Nat)

theorem chainFrom_cbcEncrypt : chainFrom (cbcEncrypt s) s.mem (srcAddr s) iv k = cipherChain s iv k := by
  induction k with
  | zero => rfl
  | succ k ih => rw [chainFrom, ih, cipherChain, cbcEncrypt, srcBlock]

theorem chainFrom_cbcDecrypt : chainFrom (cbcDecrypt s) s.mem (srcAddr s) iv k = savedChain s iv k := by
  cases k <;> rfl

theorem outFrom_ecbEncrypt : outFrom (ecbEncrypt s) s.mem (srcAddr s) iv k = encCtx s (srcBlock s k) :=
  congrArg (encCtx s) BitVec.xor_zero

theorem outFrom_ecbDecrypt : outFrom (ecbDecrypt s) s.mem (srcAddr s) iv k = decCtx s (srcBlock s k) :=
  BitVec.xor_zero

theorem outFrom_cbcEncrypt : outFrom (cbcEncrypt s) s.mem (srcAddr s) iv k =
    encCtx s (srcBlock s k ^^^ cipherChain s iv k) := by
  rw [outFrom, chainFrom_cbcEncrypt, cbcEncrypt, srcBlock]

theorem outFrom_cbcDecrypt : outFrom (cbcDecrypt s) s.mem (srcAddr s) iv k =
    decCtx s (srcBlock s k) ^^^ savedChain s iv k := by
  rw [outFrom, chainFrom_cbcDecrypt, cbcDecrypt, srcBlock]

end Streams

/-! ### A command that completes -/

section Completes
variable {s t : State} {f : Block → Block → Block × Block}

theorem runUnchained_completes (h : UnchainedReady s) (f : Block → Block → Block × Block) :
    ∃ t, runUnchained f s = .next t := ⟨_, (runUnchained_next s f _).2 ⟨h, rfl⟩⟩

theorem runChained_completes (h : ChainedReady s) (f : Block → Block → Block × Block) :
    ∃ t, runChained f s = .next t := ⟨_, (runChained_next s f _).2 ⟨h, rfl⟩⟩

theorem execMac_completes (h : MacReady s) : ∃ t, execMac s = .next t := ⟨_, (execMac_next s _).2 ⟨h, rfl⟩⟩

theorem runUnchained_frame (h : runUnchained f s = .next t) : t = (s.withMem t.mem).withStatus 0#32 := by
  obtain ⟨-, rfl⟩ := (runUnchained_next s f t).1 h
  rfl

theorem runChained_frame (h : runChained f s = .next t) : t = (s.withMem t.mem).withStatus 0#32 := by
  obtain ⟨-, rfl⟩ := (runChained_next s f t).1 h
  rfl

theorem execMac_frame (h : execMac s = .next t) : t = (s.withMem t.mem).withStatus 0#32 := by
  obtain ⟨-, rfl⟩ := (execMac_next s t).1 h
  rfl

/-! ### The blocks it stores -/

/-- Destination block `k` is the output for source block `k` as it was before the command (45_commands.md R226). -/
theorem read64_runUnchained (h : runUnchained f s = .next t) {k : Nat} (hk : k < blockCount s) :
    read64 t.mem (dstAddr s + 8 * k) = outFrom f s.mem (srcAddr s) 0#64 k := by
  obtain ⟨hr, rfl⟩ := (runUnchained_next s f t).1 h
  exact (blockLoop_transform f _ _ (0#64, s.mem) _ hr.overlap).2 k hk

/-- The chaining-state buffer holds the last chain value (45_commands.md R222). -/
theorem read64_iv_runChained (h : runChained f s = .next t) :
    read64 t.mem (ivAddr s) = chainFrom f s.mem (srcAddr s) (ivBlock s) (blockCount s) := by
  obtain ⟨hr, rfl⟩ := (runChained_next s f t).1 h
  exact (read64_write64_same _ _ _).trans (blockLoop_transform f _ _ (ivBlock s, s.mem) _ hr.overlap).1

/-- Outside the chaining-state buffer, destination block `k` holds the bytes of the output for source block `k`. -/
theorem readByte_dst_runChained (h : runChained f s = .next t) {k j : Nat} (hk : k < blockCount s) (hj : j < 8)
    (hiv : ¬InRegion (dstAddr s + 8 * k + j) (ivAddr s) 8) :
    readByte t.mem (dstAddr s + 8 * k + j) = byteOf (outFrom f s.mem (srcAddr s) (ivBlock s) k) j := by
  obtain ⟨hr, rfl⟩ := (runChained_next s f t).1 h
  have hout := (blockLoop_transform f _ _ (ivBlock s, s.mem) _ hr.overlap).2 k hk
  rw [← hout, byteOf_read64 _ _ hj]
  exact (readByte_write64 _ _ _ _).trans (if_neg hiv)

/-- A destination block apart from the chaining-state buffer is the output for its source block. -/
theorem read64_dst_runChained (h : runChained f s = .next t) {k : Nat} (hk : k < blockCount s)
    (hiv : Apart (ivAddr s) 8 (dstAddr s + 8 * k) 8) :
    read64 t.mem (dstAddr s + 8 * k) = outFrom f s.mem (srcAddr s) (ivBlock s) k :=
  block_ext fun j hj => by
    rw [byteOf_read64 _ _ hj]
    refine readByte_dst_runChained h hk hj ?_
    unfold Apart at hiv
    unfold InRegion
    omega

/-- MAC's destination is the last chain value from zero, which is the last block's output (45_commands.md R224). -/
theorem read64_execMac (h : execMac s = .next t) {k : Nat} (hk : blockCount s = k + 1) :
    read64 t.mem (dstAddr s) = cipherChain s 0#64 (k + 1) := by
  obtain ⟨hr, rfl⟩ := (execMac_next s t).1 h
  have hout := (blockLoop_mac (cbcEncrypt s) _ _ (0#64, s.mem) _ hr.overlap).2 k hk
  exact hout.trans (outFrom_cbcEncrypt s 0#64 k)

end Completes

/-! ### The statements -/

/-- Settles O39: the loop's outputs are ENC_ctx of the source blocks, as XOR with the constant 0 changes nothing. -/
theorem transformEncryptsEachBlock : Obligations.TransformEncryptsEachBlock := by
  intro s hs
  obtain ⟨t, ht⟩ := runUnchained_completes hs (ecbEncrypt s)
  exact ⟨t, ht, runUnchained_frame ht,
    fun k hk => (read64_runUnchained ht hk).trans (outFrom_ecbEncrypt s _ k), fun x hx => readByte_runUnchained ht hx⟩

/-- Settles O40: the loop's outputs are DEC_ctx of the source blocks. -/
theorem transformDecryptsEachBlock : Obligations.TransformDecryptsEachBlock := by
  intro s hs
  obtain ⟨t, ht⟩ := runUnchained_completes hs (ecbDecrypt s)
  exact ⟨t, ht, runUnchained_frame ht,
    fun k hk => (read64_runUnchained ht hk).trans (outFrom_ecbDecrypt s _ k), fun x hx => readByte_runUnchained ht hx⟩

/-- Settles O41: the write-back comes after the last block, so the buffer's bytes are the chain value's wherever it
lies. -/
theorem chainedEncryptionChains : Obligations.ChainedEncryptionChains := by
  intro s hs
  obtain ⟨t, ht⟩ := runChained_completes hs (cbcEncrypt s)
  refine ⟨t, ht, runChained_frame ht, (read64_iv_runChained ht).trans (chainFrom_cbcEncrypt s _ _),
    fun k hk j hj hiv => ?_, fun x hx hiv => readByte_runChained ht hx hiv⟩
  rw [readByte_dst_runChained ht hk hj hiv, outFrom_cbcEncrypt]

/-- Settles O42: as for the encryption, with the saved ciphertext as the chain value. -/
theorem chainedDecryptionChains : Obligations.ChainedDecryptionChains := by
  intro s hs
  obtain ⟨t, ht⟩ := runChained_completes hs (cbcDecrypt s)
  refine ⟨t, ht, runChained_frame ht, (read64_iv_runChained ht).trans (chainFrom_cbcDecrypt s _ _),
    fun k hk j hj hiv => ?_, fun x hx hiv => readByte_runChained ht hx hiv⟩
  rw [readByte_dst_runChained ht hk hj hiv, outFrom_cbcDecrypt]

/-- Settles O43: every block is written to the same eight bytes, so the last output stays. -/
theorem macKeepsTheLastChainValue : Obligations.MacKeepsTheLastChainValue := by
  intro s hs
  obtain ⟨t, ht⟩ := execMac_completes hs
  refine ⟨t, ht, execMac_frame ht, fun hpos => ?_, fun x hx => readByte_execMac ht hx⟩
  obtain ⟨k, hk⟩ := Nat.exists_eq_succ_of_ne_zero hpos.ne'
  rw [hk]
  exact read64_execMac ht hk

/-! ### No block -/

/-- The outcome goes on with STATUS 0, no other field and no byte of memory changed. -/
def CompletesUnchanged (s : State) (o : Host.Outcome State Fault Refusal) : Prop :=
  ∃ t, o = .next t ∧ t = (s.withMem t.mem).withStatus 0#32 ∧ ∀ x, readByte t.mem x = readByte s.mem x

section NoBlock
variable {s : State} {f : Block → Block → Block × Block} (hn : blockCount s = 0)
include hn

theorem unchainedReady_of_noBlock (h0 : argWritten s 0 = true) (h1 : argWritten s 1 = true)
    (h2 : argWritten s 2 = true) (hk : s.keyValid = true) : UnchainedReady s where
  dstWritten := h0
  srcWritten := h1
  countWritten := h2
  key := hk
  srcAligned := fun _ hpos => by omega
  dstAligned := fun _ hpos => by omega
  srcBounds := fun hpos => by omega
  dstBounds := fun hpos => by omega
  overlap := by omega

theorem macReady_of_noBlock (h : UnchainedReady s) : MacReady s where
  dstWritten := h.dstWritten
  srcWritten := h.srcWritten
  countWritten := h.countWritten
  key := h.key
  srcAligned := h.srcAligned
  dstAligned := fun hpos => by omega
  srcBounds := h.srcBounds
  dstBounds := fun hpos => by omega
  overlap := fun hpos => by omega

theorem runUnchained_noBlock (h : UnchainedReady s) : CompletesUnchanged s (runUnchained f s) := by
  obtain ⟨t, ht⟩ := runUnchained_completes h f
  exact ⟨t, ht, runUnchained_frame ht, fun x => readByte_runUnchained ht fun ⟨_, _⟩ => by omega⟩

theorem execMac_noBlock (h : MacReady s) : CompletesUnchanged s (execMac s) := by
  obtain ⟨t, ht⟩ := execMac_completes h
  exact ⟨t, ht, execMac_frame ht, fun x => readByte_execMac ht fun ⟨hpos, _⟩ => by omega⟩

/-- The chained forms write the chaining state back as they read it. -/
theorem runChained_noBlock (h : ChainedReady s) : CompletesUnchanged s (runChained f s) := by
  obtain ⟨t, ht⟩ := runChained_completes h f
  refine ⟨t, ht, runChained_frame ht, fun x => ?_⟩
  have hiv : read64 t.mem (ivAddr s) = read64 s.mem (ivAddr s) := by
    rw [read64_iv_runChained ht, hn, chainFrom, ivBlock]
  by_cases hx : InRegion x (ivAddr s) 8
  · obtain ⟨hlo, hhi⟩ := hx
    obtain ⟨j, rfl⟩ := Nat.exists_eq_add_of_le hlo
    have hj : j < 8 := by omega
    rw [← byteOf_read64 _ _ hj, hiv, byteOf_read64 _ _ hj]
  · exact readByte_runChained ht (fun ⟨_, _⟩ => by omega) hx

end NoBlock

/-- Settles O44: without a block the regions of source and destination are empty and pass. -/
theorem zeroBlocksChangeNoByte : Obligations.ZeroBlocksChangeNoByte := by
  intro s i hn h0 h1 h2 hk hi
  have hready := unchainedReady_of_noBlock hn h0 h1 h2 hk
  simp only [List.mem_cons, List.not_mem_nil, or_false] at hi
  rcases hi with (rfl | rfl | rfl) | ⟨rfl | rfl, h3, ha, hb⟩
  · exact runUnchained_noBlock (f := ecbEncrypt s) hn hready
  · exact runUnchained_noBlock (f := ecbDecrypt s) hn hready
  · exact execMac_noBlock hn (macReady_of_noBlock hn hready)
  · exact runChained_noBlock (f := cbcEncrypt s) hn ⟨hready, h3, ha, hb⟩
  · exact runChained_noBlock (f := cbcDecrypt s) hn ⟨hready, h3, ha, hb⟩

end Sys2Proof.Machine
end

section
/-! PROOFS. Laws of the commands (spec/45_commands.md R226, R227, R229): what a command computes depends on the context,
the chaining state and the source blocks alone, and decryption undoes encryption block by block. -/

namespace Sys2Proof.Machine

/-! ### One block of a region -/

/-- Block `k` lies inside its region, so it is apart from what the region is apart from. -/
theorem Apart.block {a d n k : Nat} (h : Apart a 8 d (8 * n)) (hk : k < n) : Apart a 8 (d + 8 * k) 8 := by
  unfold Apart at *
  omega

/-! ### Equal contexts -/

section SameContext
variable {s u : State} (h : SameContext s u)
include h

theorem encCtx_congr : encCtx u = encCtx s := by
  obtain ⟨hp, hrk, ht, -⟩ := h
  funext x
  simp only [encCtx, hp, hrk, ht]

theorem decCtx_congr : decCtx u = decCtx s := by
  obtain ⟨hp, hrk, ht, -⟩ := h
  funext x
  simp only [decCtx, hp, hrk, ht]

theorem ecbEncrypt_congr : ecbEncrypt u = ecbEncrypt s := by
  funext x cv
  rw [ecbEncrypt, encCtx_congr h, ecbEncrypt]

theorem ecbDecrypt_congr : ecbDecrypt u = ecbDecrypt s := by
  funext x cv
  rw [ecbDecrypt, decCtx_congr h, ecbDecrypt]

theorem cbcEncrypt_congr : cbcEncrypt u = cbcEncrypt s := by
  funext x cv
  rw [cbcEncrypt, encCtx_congr h, cbcEncrypt]

theorem cbcDecrypt_congr : cbcDecrypt u = cbcDecrypt s := by
  funext x cv
  rw [cbcDecrypt, decCtx_congr h, cbcDecrypt]

end SameContext

/-! ### Equal source blocks -/

section SameSource
variable {s u t v : State} {f : Block → Block → Block × Block}

/-- The chain value before block `k` depends on the source blocks before `k` alone. -/
theorem chainFrom_congr (cv : Block) {k : Nat} (h : ∀ j < k, srcBlock s j = srcBlock u j) :
    chainFrom f s.mem (srcAddr s) cv k = chainFrom f u.mem (srcAddr u) cv k := by
  induction k with
  | zero => rfl
  | succ k ih =>
    have hk := h k (Nat.lt_succ_self k)
    rw [srcBlock, srcBlock] at hk
    rw [chainFrom, chainFrom, ih fun j hj => h j (by omega), hk]

/-- The output of block `k` depends on the source blocks up to `k` alone. -/
theorem outFrom_congr (cv : Block) {k : Nat} (h : ∀ j ≤ k, srcBlock s j = srcBlock u j) :
    outFrom f s.mem (srcAddr s) cv k = outFrom f u.mem (srcAddr u) cv k := by
  have hk := h k (Nat.le_refl k)
  rw [srcBlock, srcBlock] at hk
  rw [outFrom, outFrom, chainFrom_congr cv fun j hj => h j (by omega), hk]

/-- Two chained encryptions of the same blocks under one context have the same chain values. -/
theorem cipherChain_congr (hc : SameContext s u) (iv : Block) {k : Nat} (h : ∀ j < k, srcBlock s j = srcBlock u j) :
    cipherChain s iv k = cipherChain u iv k := by
  rw [← chainFrom_cbcEncrypt, ← chainFrom_cbcEncrypt, cbcEncrypt_congr hc, chainFrom_congr iv h]

/-- Commands without chaining on the same source blocks store the same blocks, wherever they store them. -/
theorem runUnchained_congr (hs : runUnchained f s = .next t) (hu : runUnchained f u = .next v)
    (hn : blockCount s = blockCount u) (h : ∀ k < blockCount s, srcBlock s k = srcBlock u k) :
    ∀ k < blockCount s, read64 t.mem (dstAddr s + 8 * k) = read64 v.mem (dstAddr u + 8 * k) := by
  intro k hk
  rw [read64_runUnchained hs hk, read64_runUnchained hu (hn ▸ hk), outFrom_congr _ fun j hj => h j (by omega)]

/-- Chained commands on the same source blocks and chaining state store the same blocks and the same final chaining
state. -/
theorem runChained_congr (hs : runChained f s = .next t) (hu : runChained f u = .next v)
    (hn : blockCount s = blockCount u) (h : ∀ k < blockCount s, srcBlock s k = srcBlock u k)
    (hiv : ivBlock s = ivBlock u) (has : Apart (ivAddr s) 8 (dstAddr s) (8 * blockCount s))
    (hau : Apart (ivAddr u) 8 (dstAddr u) (8 * blockCount u)) :
    (∀ k < blockCount s, read64 t.mem (dstAddr s + 8 * k) = read64 v.mem (dstAddr u + 8 * k)) ∧
      read64 t.mem (ivAddr s) = read64 v.mem (ivAddr u) := by
  refine ⟨fun k hk => ?_, ?_⟩
  · have hku : k < blockCount u := hn ▸ hk
    rw [read64_dst_runChained hs hk (has.block hk), read64_dst_runChained hu hku (hau.block hku), ← hiv,
      outFrom_congr _ fun j hj => h j (by omega)]
  · rw [read64_iv_runChained hs, read64_iv_runChained hu, ← hn, ← hiv, chainFrom_congr _ h]

end SameSource

/-- Settles O45: in each form the two states run one block function on the same source blocks. -/
theorem inPlaceEqualsCopied : Obligations.InPlaceEqualsCopied := by
  intro s u t v i hi _ hc hn hsrc hiv hs hu
  simp only [List.mem_cons, List.not_mem_nil, or_false] at hi hiv ⊢
  rcases hi with rfl | rfl | rfl | rfl
  · have hu' : runUnchained (ecbEncrypt s) u = .next v := ecbEncrypt_congr hc ▸ hu
    exact ⟨runUnchained_congr (f := ecbEncrypt s) hs hu' hn hsrc, nofun⟩
  · have hu' : runUnchained (ecbDecrypt s) u = .next v := ecbDecrypt_congr hc ▸ hu
    exact ⟨runUnchained_congr (f := ecbDecrypt s) hs hu' hn hsrc, nofun⟩
  · obtain ⟨hiv, has, hau⟩ := hiv (.inl rfl)
    have hu' : runChained (cbcEncrypt s) u = .next v := cbcEncrypt_congr hc ▸ hu
    obtain ⟨hdst, hlast⟩ := runChained_congr (f := cbcEncrypt s) hs hu' hn hsrc hiv has hau
    exact ⟨hdst, fun _ => hlast⟩
  · obtain ⟨hiv, has, hau⟩ := hiv (.inr rfl)
    have hu' : runChained (cbcDecrypt s) u = .next v := cbcDecrypt_congr hc ▸ hu
    obtain ⟨hdst, hlast⟩ := runChained_congr (f := cbcDecrypt s) hs hu' hn hsrc hiv has hau
    exact ⟨hdst, fun _ => hlast⟩

/-! ### Round trips -/

/-- Settles O46: DEC_ctx undoes ENC_ctx on every block. -/
theorem unchainedRoundTrip : Obligations.UnchainedRoundTrip := by
  intro s t u hs hu hc hn hsrc
  obtain ⟨v, hv⟩ := runUnchained_completes hu (ecbDecrypt u)
  refine ⟨v, hv, fun k hk => ?_⟩
  have hcipher : srcBlock u k = encCtx s (srcBlock s k) :=
    calc srcBlock u k
      _ = read64 t.mem (dstAddr s + 8 * k) := hsrc k hk
      _ = outFrom (ecbEncrypt s) s.mem (srcAddr s) 0#64 k := read64_runUnchained hs hk
      _ = encCtx s (srcBlock s k) := outFrom_ecbEncrypt s _ k
  rw [read64_runUnchained hv (hn ▸ hk), outFrom_ecbDecrypt, hcipher, decCtx_congr hc, decCtx_encCtx]

/-- When each source block of `u` is the ciphertext of chained encryption at `s`, both chains run alike. -/
theorem savedChain_eq_cipherChain {s u : State} (iv : Block) {n : Nat}
    (h : ∀ k < n, srcBlock u k = cipherChain s iv (k + 1)) {k : Nat} (hk : k ≤ n) :
    savedChain u iv k = cipherChain s iv k := by
  cases k with
  | zero => rfl
  | succ k => exact h k hk

/-- Settles O47: the saved ciphertext is the chain value of the encryption, so its XOR cancels. -/
theorem chainedRoundTrip : Obligations.ChainedRoundTrip := by
  intro s t u hs hu hc hn hiv has hau hsrc
  obtain ⟨v, hv⟩ := runChained_completes hu (cbcDecrypt u)
  have hdst : ∀ k < blockCount s, read64 t.mem (dstAddr s + 8 * k) = cipherChain s (ivBlock s) (k + 1) :=
    fun k hk => (read64_dst_runChained hs hk (has.block hk)).trans (outFrom_cbcEncrypt s _ k)
  have hchain {k : Nat} (hk : k ≤ blockCount s) : savedChain u (ivBlock s) k = cipherChain s (ivBlock s) k :=
    savedChain_eq_cipherChain _ (fun k hk => (hsrc k hk).trans (hdst k hk)) hk
  refine ⟨v, hv, fun k hk => ?_, fun k hk => ?_⟩
  · have hku : k < blockCount u := hn ▸ hk
    rw [read64_dst_runChained hv hku (hau.block hku), outFrom_cbcDecrypt, hsrc k hk, hdst k hk, hiv,
      hchain (Nat.le_of_lt hk), cipherChain, decCtx_congr hc, decCtx_encCtx, BitVec.xor_assoc, BitVec.xor_self,
      BitVec.xor_zero]
  · rw [hdst k (by omega), read64_iv_runChained hs, read64_iv_runChained hv, chainFrom_cbcEncrypt,
      chainFrom_cbcDecrypt, hn, hiv, hchain (Nat.le_refl _), hk]
    exact ⟨rfl, rfl⟩

/-! ### MAC -/

/-- Settles O49: both are the output for the last block of one chained encryption. -/
theorem macIsTheLastChainedBlock : Obligations.MacIsTheLastChainedBlock := by
  intro s t u k hs hu hc hns hnu hsrc hiv ha
  obtain ⟨v, hv⟩ := runChained_completes hu (cbcEncrypt u)
  refine ⟨v, hv, ?_⟩
  calc read64 t.mem (dstAddr s)
    _ = cipherChain s 0#64 (k + 1) := read64_execMac hs hns
    _ = cipherChain u 0#64 (k + 1) := cipherChain_congr hc _ fun j hj => hsrc j (by omega)
    _ = outFrom (cbcEncrypt u) u.mem (srcAddr u) (ivBlock u) k := by rw [hiv, outFrom_cbcEncrypt, cipherChain]
    _ = read64 v.mem (dstAddr u + 8 * k) := (read64_dst_runChained hv (by omega) ha).symm

end Sys2Proof.Machine
end

section
/-! PROOFS. A chained TRANSFORM resumes (spec/45_commands.md R228). The second command goes on with the loop the first one
stopped in, from a memory that differs at most in the chaining-state buffer: no source block lies there, and the last
write-back covers it. -/

namespace Sys2Proof.Machine

/-! ### The loop in two parts -/

/-- The loop over `a + b` blocks is the loop over the first `a` and then over the next `b`. -/
theorem blockLoop_add (f : Block → Block → Block × Block) (src dst stride a b : Nat) (cm : Block × Memory) :
    blockLoop f src dst stride (a + b) cm =
      blockLoop f (src + 8 * a) (dst + stride * a) stride b (blockLoop f src dst stride a cm) := by
  induction b with
  | zero => rfl
  | succ b ih =>
    have hsrc : src + 8 * (a + b) = src + 8 * a + 8 * b := by omega
    have hdst : dst + stride * (a + b) = dst + stride * a + stride * b := by rw [Nat.mul_add, Nat.add_assoc]
    rw [← Nat.add_assoc, blockLoop, ih, hsrc, hdst, blockLoop]

/-! ### Memories that differ at most in the chaining-state buffer -/

/-- The two memories hold the same bytes outside `[a, a + n)`. -/
def AgreeOutside (a n : Nat) (m m' : Memory) : Prop := ∀ x, ¬InRegion x a n → readByte m x = readByte m' x

section Outside
variable {a : Nat} {m m' : Memory}

theorem agreeOutside_write64 (m : Memory) (a : Nat) (v : Block) : AgreeOutside a 8 m (write64 m a v) :=
  fun x hx => ((readByte_write64 m a x v).trans (if_neg hx)).symm

theorem AgreeOutside.read64_eq (h : AgreeOutside a 8 m m') {b : Nat} (hb : Apart a 8 b 8) :
    read64 m b = read64 m' b :=
  read64_congr fun j hj => h _ fun ⟨_, _⟩ => by unfold Apart at hb; omega

theorem AgreeOutside.write64_agree (h : AgreeOutside a 8 m m') (b : Nat) (v : Block) :
    AgreeOutside a 8 (write64 m b v) (write64 m' b v) := by
  intro x hx
  rw [readByte_write64, readByte_write64, h x hx]

/-- One value stored over the only bytes that can differ leaves none that do. -/
theorem AgreeOutside.readByte_write64_eq (h : AgreeOutside a 8 m m') (v : Block) (x : Nat) :
    readByte (write64 m a v) x = readByte (write64 m' a v) x := by
  rw [readByte_write64, readByte_write64]
  split
  · rfl
  · next hx => exact h x hx

/-- A loop whose source lies apart from the bytes that differ runs alike on both memories. -/
theorem AgreeOutside.blockLoop_agree (h : AgreeOutside a 8 m m') (f : Block → Block → Block × Block)
    (src dst stride : Nat) (cv : Block) {n : Nat} (ha : Apart a 8 src (8 * n)) :
    (blockLoop f src dst stride n (cv, m)).1 = (blockLoop f src dst stride n (cv, m')).1 ∧
      AgreeOutside a 8 (blockLoop f src dst stride n (cv, m)).2
        (blockLoop f src dst stride n (cv, m')).2 := by
  induction n with
  | zero => exact ⟨rfl, h⟩
  | succ n ih =>
    obtain ⟨hcv, hmem⟩ := ih (by unfold Apart at *; omega)
    have hread := hmem.read64_eq (b := src + 8 * n) (ha.block (Nat.lt_succ_self n))
    simp only [blockLoop, hcv, hread]
    exact ⟨trivial, hmem.write64_agree _ _⟩

end Outside

/-! ### A command on some of the blocks -/

/-- The last chain value and the memory before the write-back of a chained TRANSFORM. -/
def chainedLoop (f : Block → Block → Block × Block) (s : State) : Block × Memory :=
  blockLoop f (srcAddr s) (dstAddr s) 8 (blockCount s) (ivBlock s, s.mem)

theorem mem_runChained {f : Block → Block → Block × Block} {s t : State} (h : runChained f s = .next t) :
    t.mem = write64 (chainedLoop f s).2 (ivAddr s) (chainedLoop f s).1 := by
  obtain ⟨-, rfl⟩ := (runChained_next s f t).1 h
  rfl

/-- `u` holds a chained command on blocks `k` and up of the command that `s` holds, in the same context and with the
same chaining-state buffer. Addresses of no block do not matter. -/
structure BlocksFrom (s : State) (k : Nat) (u : State) : Prop where
  context : SameContext s u
  written : ∀ n, argWritten s n = true → argWritten u n = true
  count : k + blockCount u ≤ blockCount s
  dst : 0 < blockCount u → dstAddr u = dstAddr s + 8 * k
  src : 0 < blockCount u → srcAddr u = srcAddr s + 8 * k
  iv : ivAddr u = ivAddr s

section Region
variable {p : Params} {a n a' n' k : Nat}

theorem RegionOk.part (h : RegionOk p a n) (ha : 0 < n' → a ≤ a' ∧ a' + n' ≤ a + n) : RegionOk p a' n' := by
  intro hpos
  obtain ⟨hlo, hhi⟩ := ha hpos
  obtain ⟨hlim, hmap⟩ := h (by omega)
  exact ⟨by omega, fun x h1 h2 => hmap x (by omega) (by omega)⟩

theorem AlignOk.part (h : AlignOk p a n) (hn : n' ≤ n) (ha : 0 < n' → a' = a + 8 * k) : AlignOk p a' n' := by
  intro hc hpos
  have := h hc (by omega)
  have := ha hpos
  omega

end Region

section Part
variable {s u : State} {k : Nat}

/-- What passes its checks passes them on some of its blocks. -/
theorem ChainedReady.part (h : ChainedReady s) (hu : BlocksFrom s k u) : ChainedReady u := by
  obtain ⟨⟨hp, -, -, hkey⟩, hw, hn, hdst, hsrc, hiv⟩ := hu
  have hle : 8 * blockCount u ≤ 8 * blockCount s := by omega
  have hov := h.overlap
  exact {
    dstWritten := hw 0 h.dstWritten
    srcWritten := hw 1 h.srcWritten
    countWritten := hw 2 h.countWritten
    ivWritten := hw 3 h.ivWritten
    key := hkey ▸ h.key
    srcAligned := hp ▸ h.srcAligned.part hle fun hpos => hsrc (by omega)
    dstAligned := hp ▸ h.dstAligned.part hle fun hpos => hdst (by omega)
    srcBounds := hp ▸ h.srcBounds.part fun hpos => by have := hsrc (by omega); omega
    dstBounds := hp ▸ h.dstBounds.part fun hpos => by have := hdst (by omega); omega
    ivAligned := hiv ▸ hp ▸ h.ivAligned
    ivBounds := hiv ▸ hp ▸ h.ivBounds
    overlap := by omega }

/-- The loop of a command on blocks `k` and up, at the addresses of the whole command. -/
theorem BlocksFrom.chainedLoop_eq (hu : BlocksFrom s k u) (f : Block → Block → Block × Block) :
    chainedLoop f u =
      blockLoop f (srcAddr s + 8 * k) (dstAddr s + 8 * k) 8 (blockCount u) (ivBlock u, u.mem) := by
  rcases Nat.eq_zero_or_pos (blockCount u) with h0 | hpos
  · rw [chainedLoop, h0, blockLoop, blockLoop]
  · rw [chainedLoop, hu.src hpos, hu.dst hpos]

end Part

section Resumes
variable {s t u₁ t₁ u₂ t₂ : State} {f : Block → Block → Block × Block} {a : Nat}

/-- The first `a` blocks and then, from the memory they leave, the rest. -/
theorem runChained_resumes (ht : runChained f s = .next t) (ht₁ : runChained f u₁ = .next t₁)
    (ht₂ : runChained f u₂ = .next t₂) (ha : Apart (ivAddr s) 8 (srcAddr s) (8 * blockCount s))
    (hu₁ : BlocksFrom s 0 u₁) (hu₂ : BlocksFrom s a u₂) (ha₁ : blockCount u₁ = a)
    (hn : blockCount s = a + blockCount u₂) (hm₁ : u₁.mem = s.mem) (hm₂ : u₂.mem = t₁.mem) (x : Nat) :
    readByte t₂.mem x = readByte t.mem x := by
  subst ha₁
  have hiv₁ : ivBlock u₁ = ivBlock s := by rw [ivBlock, ivBlock, hu₁.iv, hm₁]
  have hfirst := hu₁.chainedLoop_eq f
  rw [hiv₁, hm₁, Nat.mul_zero, Nat.add_zero, Nat.add_zero] at hfirst
  have hwhole : chainedLoop f s = blockLoop f (srcAddr s + 8 * blockCount u₁) (dstAddr s + 8 * blockCount u₁) 8
      (blockCount u₂) (chainedLoop f u₁) := by
    rw [chainedLoop, hn, blockLoop_add, ← hfirst]
  have hmem : u₂.mem = write64 (chainedLoop f u₁).2 (ivAddr s) (chainedLoop f u₁).1 := by
    rw [hm₂, mem_runChained ht₁, hu₁.iv]
  have hiv₂ : ivBlock u₂ = (chainedLoop f u₁).1 := by
    rw [ivBlock, hu₂.iv, hmem, read64_write64_same]
  have hsecond := hu₂.chainedLoop_eq f
  rw [hiv₂, hmem] at hsecond
  have hrest : Apart (ivAddr s) 8 (srcAddr s + 8 * blockCount u₁) (8 * blockCount u₂) := by unfold Apart at *; omega
  have hwriteBack := agreeOutside_write64 (chainedLoop f u₁).2 (ivAddr s) (chainedLoop f u₁).1
  obtain ⟨hcv, hagree⟩ := hwriteBack.blockLoop_agree f (srcAddr s + 8 * blockCount u₁)
    (dstAddr s + 8 * blockCount u₁) 8 (chainedLoop f u₁).1 hrest
  rw [← hsecond, Prod.mk.eta, ← hwhole] at hcv hagree
  rw [mem_runChained ht₂, mem_runChained ht, hu₂.iv, ← hcv]
  exact (hagree.readByte_write64_eq _ x).symm

end Resumes

/-! ### The host's two commands -/

/-- The command on the first `a` blocks (45_commands.md R228). -/
def firstPart (s : State) (a : Nat) : State := writeArg s 2 (BitVec.ofNat 64 a)

/-- The command on the next `b` blocks, from where the first one left off at `t` (45_commands.md R228). -/
def nextPart (s t : State) (a b : Nat) : State :=
  writeArg (writeArg (writeArg t 0 (argValue s 0 + BitVec.ofNat 64 (8 * a))) 1
    (argValue s 1 + BitVec.ofNat 64 (8 * a))) 2 (BitVec.ofNat 64 b)

theorem argValue_writeArg_of_ne (s : State) {m n : Fin 4} (h : m ≠ n) (v : BitVec 64) :
    argValue (writeArg s n v) m = argValue s m := congrArg ArgReg.value (args_writeArg_of_ne s h v)

theorem argWritten_writeArg {s : State} {m : Fin 4} (h : argWritten s m = true) (n : Fin 4) (v : BitVec 64) :
    argWritten (writeArg s n v) m = true := by
  by_cases hmn : m = n
  · rw [hmn, argWritten_writeArg_self]
  · exact (congrArg ArgReg.written (args_writeArg_of_ne s hmn v)).trans h

/-- An address inside the address space, moved on inside it, does not wrap. -/
theorem toNat_add_ofNat {x : BitVec 64} {n : Nat} (h : x.toNat + n < 2 ^ 64) :
    (x + BitVec.ofNat 64 n).toNat = x.toNat + n := by
  rw [BitVec.toNat_add, BitVec.toNat_ofNat]
  omega

theorem toNat_ofNat_of_le_blockCount {s : State} {n : Nat} (h : n ≤ blockCount s) : (BitVec.ofNat 64 n).toNat = n :=
  Nat.mod_eq_of_lt (Nat.lt_of_le_of_lt h (argValue s 2).isLt)

section TwoParts
variable {s t : State} {a b : Nat}

theorem blockCount_firstPart (h : a ≤ blockCount s) : blockCount (firstPart s a) = a := by
  rw [blockCount, firstPart, argValue_writeArg_self, toNat_ofNat_of_le_blockCount h]

theorem blocksFrom_firstPart (h : a ≤ blockCount s) : BlocksFrom s 0 (firstPart s a) where
  context := ⟨rfl, rfl, rfl, rfl⟩
  written := fun _ hw => argWritten_writeArg hw 2 _
  count := by rw [blockCount_firstPart h]; omega
  dst := fun _ => congrArg BitVec.toNat (argValue_writeArg_of_ne s (by decide) _)
  src := fun _ => congrArg BitVec.toNat (argValue_writeArg_of_ne s (by decide) _)
  iv := congrArg BitVec.toNat (argValue_writeArg_of_ne s (by decide) _)

theorem blockCount_nextPart (h : b ≤ blockCount s) : blockCount (nextPart s t a b) = b := by
  rw [blockCount, nextPart, argValue_writeArg_self, toNat_ofNat_of_le_blockCount h]

theorem dstAddr_nextPart (h : dstAddr s + 8 * a < 2 ^ 64) : dstAddr (nextPart s t a b) = dstAddr s + 8 * a := by
  rw [dstAddr, nextPart, argValue_writeArg_of_ne _ (by decide), argValue_writeArg_of_ne _ (by decide),
    argValue_writeArg_self, toNat_add_ofNat h, dstAddr]

theorem srcAddr_nextPart (h : srcAddr s + 8 * a < 2 ^ 64) : srcAddr (nextPart s t a b) = srcAddr s + 8 * a := by
  rw [srcAddr, nextPart, argValue_writeArg_of_ne _ (by decide), argValue_writeArg_self, toNat_add_ofNat h, srcAddr]

theorem ivAddr_nextPart : ivAddr (nextPart s t a b) = ivAddr t := by
  rw [ivAddr, nextPart, argValue_writeArg_of_ne _ (by decide), argValue_writeArg_of_ne _ (by decide),
    argValue_writeArg_of_ne _ (by decide), ivAddr]

/-- The second command continues the first one when that left the core as it was but for memory and STATUS. -/
theorem blocksFrom_nextPart (h : ChainedReady s) (hn : blockCount s = a + b)
    (ht : t = ((firstPart s a).withMem t.mem).withStatus 0#32) : BlocksFrom s a (nextPart s t a b) := by
  have hcount : blockCount (nextPart s t a b) = b := blockCount_nextPart (by omega)
  have hfirst : BlocksFrom s 0 (firstPart s a) := blocksFrom_firstPart (by omega)
  have hcontext : SameContext (firstPart s a) t := by rw [ht]; exact ⟨rfl, rfl, rfl, rfl⟩
  have hargs : t.args = (firstPart s a).args := by rw [ht]; rfl
  refine ⟨hcontext, fun n hw => ?_, by omega, fun hpos => ?_, fun hpos => ?_, ?_⟩
  · have hwt : argWritten t n = true := by rw [argWritten, hargs]; exact hfirst.written n hw
    exact argWritten_writeArg (argWritten_writeArg (argWritten_writeArg hwt 0 _) 1 _) 2 _
  · obtain ⟨hlim, -⟩ := h.dstBounds (by omega)
    exact dstAddr_nextPart (by omega)
  · obtain ⟨hlim, -⟩ := h.srcBounds (by omega)
    exact srcAddr_nextPart (by omega)
  · rw [ivAddr_nextPart, ← hfirst.iv, ivAddr, argValue, hargs]; rfl

/-- A chained TRANSFORM, whatever its block function, resumes where a shorter one stopped. -/
theorem runChained_twoParts {f : Block → Block → Block × Block} (h : runChained f s = .next t)
    (hn : blockCount s = a + b) (ha : Apart (ivAddr s) 8 (srcAddr s) (8 * blockCount s)) :
    ∃ t₁ t₂, SameContext s t₁ ∧ runChained f (firstPart s a) = .next t₁ ∧
      runChained f (nextPart s t₁ a b) = .next t₂ ∧ t₂.status = t.status ∧
      ∀ x, readByte t₂.mem x = readByte t.mem x := by
  obtain ⟨hs, -⟩ := (runChained_next s f t).1 h
  have hfirst : BlocksFrom s 0 (firstPart s a) := blocksFrom_firstPart (by omega)
  obtain ⟨t₁, ht₁⟩ := runChained_completes (hs.part hfirst) f
  have hnext := blocksFrom_nextPart hs hn (runChained_frame ht₁)
  obtain ⟨t₂, ht₂⟩ := runChained_completes (hs.part hnext) f
  have hcount₁ : blockCount (firstPart s a) = a := blockCount_firstPart (by omega)
  have hcount₂ : blockCount (nextPart s t₁ a b) = b := blockCount_nextPart (by omega)
  have hstatus : t₂.status = t.status := by rw [runChained_frame ht₂, runChained_frame h]; rfl
  exact ⟨t₁, t₂, hnext.context, ht₁, ht₂, hstatus,
    runChained_resumes h ht₁ ht₂ ha hfirst hnext hcount₁ (by rw [hcount₂, hn]) rfl rfl⟩

end TwoParts

/-- Settles O48: the block functions of the three commands are one, as their contexts are. -/
theorem chainingResumes : Obligations.ChainingResumes := by
  rintro s t i a b (rfl | rfl) h hn ha
  · obtain ⟨t₁, t₂, hc, h₁, h₂, hend⟩ := runChained_twoParts (f := cbcEncrypt s) h hn ha
    have h₂' : exec .transformECbc (nextPart s t₁ a b) = .next t₂ :=
      (congrArg (runChained · _) (cbcEncrypt_congr (s := s) hc)).trans h₂
    exact ⟨t₁, t₂, h₁, h₂', hend⟩
  · obtain ⟨t₁, t₂, hc, h₁, h₂, hend⟩ := runChained_twoParts (f := cbcDecrypt s) h hn ha
    have h₂' : exec .transformDCbc (nextPart s t₁ a b) = .next t₂ :=
      (congrArg (runChained · _) (cbcDecrypt_congr (s := s) hc)).trans h₂
    exact ⟨t₁, t₂, h₁, h₂', hend⟩

end Sys2Proof.Machine
end

section
/-! PROOFS. Which check of a command fails first (spec/60_exceptions.md R265, R267), and STATUS after a command that
completes (R261). TRANSFORM and MAC share their stages: operands, key, alignment, bounds, overlap. -/

namespace Sys2Proof.Machine

/-! ### One stage of checks -/

section Stages
variable (s : State) (p : Params) (ns : List (Fin 4)) (rs : List Region) (dst src : Region) (cs : List Check)

theorem firstFault_operandChecks_append : firstFault (operandChecks s ns ++ cs) =
    if ∀ n ∈ ns, argWritten s n = true then firstFault cs else some .unwrittenOperand := by
  induction ns with
  | nil => simp [operandChecks]
  | cons n ns ih =>
    rw [operandChecks, List.map_cons, List.cons_append, ← operandChecks, firstFault, ih]
    cases hn : argWritten s n <;> simp [hn]

theorem firstFault_keyCheck_cons :
    firstFault (keyCheck s :: cs) = if s.keyValid = true then firstFault cs else some .uninitialized := by
  rw [keyCheck, firstFault]
  cases s.keyValid <;> rfl

/-- All alignments are checked before all bounds. -/
theorem firstFault_regionChecks_append : firstFault (regionChecks p rs ++ cs) =
    if ∀ r ∈ rs, misalignedRegion p r = false then
      if ∀ r ∈ rs, admitted p r = true then firstFault cs else some .outOfBounds
    else some .misaligned := by
  have ha : (∀ r ∈ rs, misalignedRegion p r = false) ↔ ¬rs.any (misalignedRegion p) = true := by simp
  have hi : (∀ r ∈ rs, admitted p r = true) ↔ ¬(rs.any fun r => !admitted p r) = true := by simp
  simp only [ha, hi, ite_not]
  rfl

theorem firstFault_overlapCheck :
    firstFault [overlapCheck dst src] = if overlapAllowed dst src = true then none else some .partialOverlap := by
  rw [overlapCheck, firstFault, firstFault]
  cases overlapAllowed dst src <;> rfl

/-- The alignment stage in the terms of 20_memory.md R57. -/
theorem alignOk_regions_iff :
    (∀ r ∈ rs, AlignOk p r.base r.size) ↔ ∀ r ∈ rs, misalignedRegion p r = false :=
  forall₂_congr fun r _ => alignOk_iff p r.base r.size

/-- The bounds stage in the terms of 20_memory.md R56. -/
theorem regionOk_regions_iff : (∀ r ∈ rs, RegionOk p r.base r.size) ↔ ∀ r ∈ rs, admitted p r = true :=
  forall₂_congr fun r _ => regionOk_iff p r.base r.size

end Stages

/-! ### INIT -/

section Init
variable {s : State} {r : Fault}

theorem execInit_unwrittenLength (h : argWritten s 1 = false) : execInit s = .fault .unwrittenOperand := by
  have hf : firstFault (operandChecks s [1]) = some .unwrittenOperand := by simp [operandChecks, firstFault, h]
  rw [execInit, hf]

theorem execInit_fault (hw : argWritten s 1 = true) (hlen : keyBits s = 64 ∨ keyBits s = 192)
    (h : firstFault (initChecks s) = some r) : execInit s = .fault r := by
  rw [execInit, (initOperand_none s).2 hw, (keyBitsValid_iff s).2 hlen, h]
  rfl

variable (s) in
theorem firstFault_initChecks : firstFault (initChecks s) =
    if argWritten s 0 = true then
      if misalignedRegion s.params (keyRegion s) = false then
        if admitted s.params (keyRegion s) = true then none else some .outOfBounds
      else some .misaligned
    else some .unwrittenOperand := by
  rw [initChecks, firstFault_operandChecks_append, ← List.append_nil (regionChecks _ _),
    firstFault_regionChecks_append]
  simp only [List.forall_mem_singleton, firstFault]

end Init

/-- Settles O50: the length stands between the check of ARG1 and the three stages that follow it. -/
theorem initFaultsInOrder : Obligations.InitFaultsInOrder := by
  refine fun s => ⟨execInit_unwrittenLength, fun hw hlen => ⟨fun h0 => ?_, fun h0 ha => ?_, fun h0 ha hi => ?_⟩⟩ <;>
    refine execInit_fault hw hlen ((firstFault_initChecks s).trans ?_)
  · exact if_neg (ne_true_of_eq_false h0)
  · exact (if_pos h0).trans (if_neg (mt (alignOk_iff _ _ _).2 ha))
  · exact (if_pos h0).trans ((if_pos ((alignOk_iff _ _ _).1 ha)).trans (if_neg (mt (regionOk_iff _ _ _).2 hi)))

/-! ### The stages of TRANSFORM and MAC -/

/-- `fails` holds of the reason of the first stage that is not met, for the stages of TRANSFORM and MAC
(60_exceptions.md R267). -/
def FailInOrder (fails : Fault → Prop) (keyValid : Bool) (written aligned inside apart : Prop) : Prop :=
  (¬written → fails .unwrittenOperand) ∧
  (written → keyValid = false → fails .uninitialized) ∧
  (written → keyValid = true → ¬aligned → fails .misaligned) ∧
  (written → keyValid = true → aligned → ¬inside → fails .outOfBounds) ∧
  (written → keyValid = true → aligned → inside → ¬apart → fails .partialOverlap)

section Commands
variable (s : State)

/-- A command that stops at its first failing check fails in the order of the stages. -/
theorem failInOrder_of_checks {fails : Fault → Prop} (ns : List (Fin 4)) (rs : List Region) (dst src : Region)
    (h : ∀ r, firstFault (operandChecks s ns ++ [keyCheck s] ++ regionChecks s.params rs ++ [overlapCheck dst src]) =
      some r → fails r) :
    FailInOrder fails s.keyValid (∀ n ∈ ns, argWritten s n = true) (∀ r ∈ rs, AlignOk s.params r.base r.size)
      (∀ r ∈ rs, RegionOk s.params r.base r.size)
      (dst.base = src.base ∨ Apart dst.base dst.size src.base src.size) := by
  rw [List.append_assoc, List.append_assoc, firstFault_operandChecks_append, List.singleton_append,
    firstFault_keyCheck_cons, firstFault_regionChecks_append, firstFault_overlapCheck] at h
  rw [alignOk_regions_iff, regionOk_regions_iff]
  refine ⟨fun hw => h _ ?_, fun hw hk => h _ ?_, fun hw hk ha => h _ ?_, fun hw hk ha hi => h _ ?_,
    fun hw hk ha hi ho => h _ ?_⟩
  · rw [if_neg hw]
  · rw [if_pos hw, if_neg (ne_true_of_eq_false hk)]
  · rw [if_pos hw, if_pos hk, if_neg ha]
  · rw [if_pos hw, if_pos hk, if_pos ha, if_neg hi]
  · rw [if_pos hw, if_pos hk, if_pos ha, if_pos hi, if_neg (mt (overlapAllowed_iff dst src).1 ho)]

theorem runUnchained_failInOrder (f : Block → Block → Block × Block) :
    FailInOrder (runUnchained f s = .fault ·) s.keyValid
      (argWritten s 0 = true ∧ argWritten s 1 = true ∧ argWritten s 2 = true)
      (AlignOk s.params (srcAddr s) (8 * blockCount s) ∧ AlignOk s.params (dstAddr s) (8 * blockCount s))
      (RegionOk s.params (srcAddr s) (8 * blockCount s) ∧ RegionOk s.params (dstAddr s) (8 * blockCount s))
      (dstAddr s = srcAddr s ∨ Apart (dstAddr s) (8 * blockCount s) (srcAddr s) (8 * blockCount s)) := by
  have h := failInOrder_of_checks s [0, 1, 2] [srcRegion s, dstRegion s] (dstRegion s) (srcRegion s)
    fun _ hr => runUnchained_fault (f := f) hr
  simp only [List.forall_mem_cons, List.not_mem_nil, false_imp_iff, implies_true, and_true] at h
  exact h

theorem runChained_failInOrder (f : Block → Block → Block × Block) :
    FailInOrder (runChained f s = .fault ·) s.keyValid
      (argWritten s 0 = true ∧ argWritten s 1 = true ∧ argWritten s 2 = true ∧ argWritten s 3 = true)
      (AlignOk s.params (srcAddr s) (8 * blockCount s) ∧ AlignOk s.params (dstAddr s) (8 * blockCount s) ∧
        AlignOk s.params (ivAddr s) 8)
      (RegionOk s.params (srcAddr s) (8 * blockCount s) ∧ RegionOk s.params (dstAddr s) (8 * blockCount s) ∧
        RegionOk s.params (ivAddr s) 8)
      (dstAddr s = srcAddr s ∨ Apart (dstAddr s) (8 * blockCount s) (srcAddr s) (8 * blockCount s)) := by
  have h := failInOrder_of_checks s [0, 1, 2, 3] [srcRegion s, dstRegion s, ivRegion s] (dstRegion s) (srcRegion s)
    fun _ hr => runChained_fault (f := f) hr
  simp only [List.forall_mem_cons, List.not_mem_nil, false_imp_iff, implies_true, and_true] at h
  exact h

/-! ### MAC's destination, which is empty when no block is processed -/

theorem alignOk_macRegion_iff : AlignOk s.params (macRegion s).base (macRegion s).size ↔
    (0 < blockCount s → AlignOk s.params (dstAddr s) 8) := by
  rcases Nat.eq_zero_or_pos (blockCount s) with h | h
  · simp [macRegion, AlignOk, h]
  · simp [macRegion, h, Nat.ne_of_gt h]

theorem regionOk_macRegion_iff : RegionOk s.params (macRegion s).base (macRegion s).size ↔
    (0 < blockCount s → RegionOk s.params (dstAddr s) 8) := by
  rcases Nat.eq_zero_or_pos (blockCount s) with h | h
  · simp [macRegion, RegionOk, h]
  · simp [macRegion, h, Nat.ne_of_gt h]

/-- Two empty regions never overlap. -/
theorem apart_macRegion_iff : ((macRegion s).base = (srcRegion s).base ∨
      Apart (macRegion s).base (macRegion s).size (srcRegion s).base (srcRegion s).size) ↔
    (blockCount s = 0 ∨ dstAddr s = srcAddr s ∨ Apart (dstAddr s) 8 (srcAddr s) (8 * blockCount s)) := by
  rcases Nat.eq_zero_or_pos (blockCount s) with h | h
  · simp [macRegion, srcRegion, Apart, h, Nat.le_total]
  · simp [macRegion, srcRegion, Nat.ne_of_gt h]

theorem execMac_failInOrder :
    FailInOrder (execMac s = .fault ·) s.keyValid
      (argWritten s 0 = true ∧ argWritten s 1 = true ∧ argWritten s 2 = true)
      (AlignOk s.params (srcAddr s) (8 * blockCount s) ∧ (0 < blockCount s → AlignOk s.params (dstAddr s) 8))
      (RegionOk s.params (srcAddr s) (8 * blockCount s) ∧ (0 < blockCount s → RegionOk s.params (dstAddr s) 8))
      (blockCount s = 0 ∨ dstAddr s = srcAddr s ∨ Apart (dstAddr s) 8 (srcAddr s) (8 * blockCount s)) := by
  have h := failInOrder_of_checks s [0, 1, 2] [srcRegion s, macRegion s] (macRegion s) (srcRegion s)
    fun _ hr => execMac_fault hr
  simp only [List.forall_mem_cons, List.not_mem_nil, false_imp_iff, implies_true, and_true, alignOk_macRegion_iff,
    regionOk_macRegion_iff, apart_macRegion_iff] at h
  exact h

end Commands

/-- Settles O51: both forms run the same checks. -/
theorem unchainedFaultsInOrder : Obligations.UnchainedFaultsInOrder := by
  rintro s i (rfl | rfl)
  · exact runUnchained_failInOrder s (ecbEncrypt s)
  · exact runUnchained_failInOrder s (ecbDecrypt s)

/-- Settles O52: both forms run the same checks. -/
theorem chainedFaultsInOrder : Obligations.ChainedFaultsInOrder := by
  rintro s i (rfl | rfl)
  · exact runChained_failInOrder s (cbcEncrypt s)
  · exact runChained_failInOrder s (cbcDecrypt s)

/-- Settles O53: MAC's regions are the source and a destination that is empty when N = 0. -/
theorem macFaultsInOrder : Obligations.MacFaultsInOrder := execMac_failInOrder

/-! ### STATUS -/

/-- Settles O56: each case of what a completed command answers names its STATUS. -/
theorem statusAfterACommand : Obligations.StatusAfterACommand := by
  intro s t i h
  rcases exec_next s h with ⟨rfl, rfl⟩ | ⟨rfl, -, hlen, rfl⟩ | ⟨rfl, -, h64, rfl⟩ | ⟨rfl, -, h192, rfl⟩ |
    ⟨_, ⟨rfl, -⟩ | ⟨rfl, -⟩, -, rfl⟩ | ⟨_, ⟨rfl, -⟩ | ⟨rfl, -⟩, -, rfl⟩ | ⟨rfl, -, rfl⟩
  case inr.inl => exact (if_pos ⟨rfl, not_or.1 hlen⟩).symm
  case inr.inr.inl => exact (if_neg fun ⟨_, hne, _⟩ => hne h64).symm
  case inr.inr.inr.inl => exact (if_neg fun ⟨_, _, hne⟩ => hne h192).symm
  all_goals exact (if_neg nofun).symm

end Sys2Proof.Machine
end

section
/-! PROOFS. Reset between commands (spec/70_reset_and_hazards.md R290, R291). -/

namespace Sys2Proof.Machine

/-- Settles O17: the step runs the reset action, whose core registers are those of the reset state (O16). -/
theorem resetActionResetsTheCore : Obligations.ResetActionResetsTheCore := by
  intro s rest hs
  obtain ⟨hrk, htriple, hvalid, hstatus, -, hargs, hmarks⟩ := resetValues
  have hstep : step (s.withHost (.reset :: rest)) = .next (applyReset (s.withHost rest)) :=
    step_withHost_cons hs .reset rest
  exact ⟨applyReset (s.withHost rest), hstep, hrk, htriple, hvalid, hstatus, hargs, hmarks, rfl, rfl, rfl⟩

end Sys2Proof.Machine
end
